-- ==== Sys2Proof/Word.lean ====
section
/-! DEFINITION. The word types of the RBFC block (00_scope.md R10, R11). -/

namespace Sys2Proof

/-- One data byte; the width of `expected_next_byte` and of every window entry (R10). -/
abbrev Byte := BitVec 8

/-- A 32-bit register or command word (R10, R90). -/
abbrev Word := BitVec 32

/-- The 64-bit `bytes_processed` and `DIAG_BP` (R10, R28). -/
abbrev Count := BitVec 64

end Sys2Proof
end

