-- ==== Sys2Proof/Config.lean ====
section
/-! DEFINITION. The implementation parameters of 00_scope.md R9, the constants the spec fixes, and the one free value of the
model. -/

namespace Sys2Proof

/-- The byte-addressed spaces of 20_memory.md R60. -/
inductive Space where
  /-- The backing store, `CAP` bytes. -/
  | store
  /-- Host data memory, `2^HOST_AW` bytes. -/
  | host
  /-- The external FIFO region, `FIFO_SIZE` bytes. -/
  | fifo
deriving DecidableEq, Repr

/-- The parameters R9 marks OPEN. They are fixed for a machine and stand in `State` as a record that no step changes, so that
every statement over all states quantifies over them. -/
structure Params where
  /-- `CAP`, the RingBuffer capacity in bytes. -/
  cap : Nat
  /-- `STORE_PRESENT`, whether a backing store is attached. -/
  storePresent : Bool
  /-- `WIN_LEN`, the length of the validator's window. -/
  winLen : Nat
  /-- `FIFO_SIZE`, the size of the external FIFO region. -/
  fifoSize : Nat
  /-- `OVF_OFFSET`, the offset of the overflow flag in the FIFO region. -/
  ovfOffset : Nat
  /-- `MISMATCH_FATAL_RESET`, the reset value of CONFIG bit 0. -/
  mismatchFatalReset : Bool
  /-- `NOTIFY_LATCHED`, whether a notification outside a wait is kept (R240). -/
  notifyLatched : Bool
deriving DecidableEq, Repr

/-- The parameter values 95_test_vectors.md takes by convention (`CAP = 8` is its most frequent one). DESIGN CHOICE, log 1: used
by `State.reset` only; unsafe for a claim about `State.reset` alone. -/
def Params.reference : Params :=
  { cap := 8, storePresent := true, winLen := 4, fifoSize := 64, ovfOffset := 63, mismatchFatalReset := false,
    notifyLatched := true }

/-- `INIT_EXPECTED` (R9). -/
def Config.initExpected : Byte := 0

/-- `THROUGHPUT_PERIOD`, 64 KiB as 65536 bytes (R9, R175; 64 KiB = 65536 is the spec's general knowledge G1, log 12). -/
def Config.throughputPeriod : Nat := 65536

/-- `HOST_AW`, the width of host data-memory addresses (R9). -/
def Config.hostAw : Nat := 32

/-- `LEN_W`, the width of the command length field (R9). -/
def Config.lenW : Nat := 24

/-- FREE VALUE, log 2: what byte `i` of a space reads as while nothing has written it. R45 and R262 say of STORE "unspecified
(each byte any value)"; for HOST and FIFO the content is the other agent's. It has no body: no proof can learn a value of it. -/
opaque Config.unwrittenByte : Space → Nat → Byte

end Sys2Proof
end

