-- ==== Sys2Proof/Syntax.lean ====
section
/-! DEFINITION. The sixteen commands of 30_encoding.md R93, one constructor per row of spec/opcode_table.json. -/

namespace Sys2Proof

/-- A command. The operand of the format-L commands is `len = zext_32(w[23:0])` (R91, R96); every other operand is a host
register (R42). -/
inductive Instr where
  /-- RB.INIT, `init(capacity)` (R111). -/
  | rbInit
  /-- RB.WRITE, `write(src, len)` (R114). -/
  | rbWrite (len : Word)
  /-- RB.READ, `read(dst, len)` (R116). -/
  | rbRead (len : Word)
  /-- RB.FLUSH, `flush(len)` (R117). -/
  | rbFlush (len : Word)
  /-- RB.SPAN, `get_contiguous_read_span()` (R120). -/
  | rbSpan
  /-- RB.CLEAR, the explicit reset of the RingBuffer (R118). -/
  | rbClear
  /-- RB.CAP, `capacity()` (R121). -/
  | rbCap
  /-- RB.USED, `used()` (R122). -/
  | rbUsed
  /-- RB.FREE, `free()` (R123). -/
  | rbFree
  /-- RB.EMPTY, `is_empty()` (R124). -/
  | rbEmpty
  /-- RB.FULL, `is_full()` (R125). -/
  | rbFull
  /-- FC.DRAIN, the FlowController drain step (R150). -/
  | fcDrain
  /-- SV.PROCESS, the SequenceValidator process step (R170). -/
  | svProcess
  /-- OS.READ, the OverflowSentinel read (R190). -/
  | osRead
  /-- LOOP.START, the running marker (R200). -/
  | loopStart
  /-- LOOP.RUN, the control loop (R202). -/
  | loopRun
deriving DecidableEq, Repr

end Sys2Proof
end

