-- ==== Sys2Proof/WellFormed.lean ====
section
/-! DEFINITION. Which commands a command word can hold, and which parameter values the spec admits. -/

namespace Sys2Proof

/-- A length a command word can hold: `0 <= len <= 16777215` (R91). -/
def lenFits (len : Word) : Bool := decide (len.toNat < 2 ^ Config.lenW)

/-- A command that has a command word: the length operand fits the LEN field (R91, R92). -/
def Instr.wf : Instr → Bool
  | .rbWrite len => lenFits len
  | .rbRead len => lenFits len
  | .rbFlush len => lenFits len
  | .rbInit => true
  | .rbSpan => true
  | .rbClear => true
  | .rbCap => true
  | .rbUsed => true
  | .rbFree => true
  | .rbEmpty => true
  | .rbFull => true
  | .fcDrain => true
  | .svProcess => true
  | .osRead => true
  | .loopStart => true
  | .loopRun => true

/-- The ranges R9 gives the parameters. -/
def Params.ok (p : Params) : Bool :=
  decide (p.cap ≤ 2 ^ 31) && decide (1 ≤ p.winLen) && decide (p.winLen ≤ 64) && decide (1 ≤ p.fifoSize) &&
    decide (p.fifoSize ≤ 2 ^ 32) && decide (p.ovfOffset < p.fifoSize)

end Sys2Proof
end

