-- ==== Sys2Proof/Decode.lean ====
section
/-! DEFINITION. The decoder of 30_encoding.md R96, total on all command words, and the encoder after it (R90, R97). -/

namespace Sys2Proof

/-- Why a word is illegal (R94). -/
inductive DecodeError where
  /-- The OPC value is not in the table of R93. -/
  | unassignedOpcode (opc : BitVec 8)
  /-- A format-Z opcode with `LEN != 0`. -/
  | nonzeroLength (opc : BitVec 8) (len : BitVec 24)
deriving DecidableEq, Repr

/-- The two operand forms of R92. -/
inductive Form where
  /-- Format Z: no operand, LEN must be 0. -/
  | z (i : Instr)
  /-- Format L: LEN is the operand. -/
  | l (mk : Word → Instr)

/-- The opcode map (R93). -/
def opcodeMap : List (BitVec 8 × Form) :=
  [(0x01, .z .rbInit),
   (0x02, .l .rbWrite),
   (0x03, .l .rbRead),
   (0x04, .l .rbFlush),
   (0x05, .z .rbSpan),
   (0x06, .z .rbClear),
   (0x08, .z .rbCap),
   (0x09, .z .rbUsed),
   (0x0A, .z .rbFree),
   (0x0B, .z .rbEmpty),
   (0x0C, .z .rbFull),
   (0x10, .z .fcDrain),
   (0x18, .z .svProcess),
   (0x20, .z .osRead),
   (0x30, .z .loopStart),
   (0x31, .z .loopRun)]

/-- OPC, bits 31:24 of a command word (R90). -/
def opcField (w : Word) : BitVec 8 := w.extractLsb' 24 8

/-- LEN, bits 23:0 of a command word (R90). -/
def lenField (w : Word) : BitVec 24 := w.extractLsb' 0 24

/-- `Decode(w)` (R96). -/
def decode (w : Word) : Except DecodeError Instr :=
  match opcodeMap.lookup (opcField w) with
  | none => .error (.unassignedOpcode (opcField w))
  | some (.z i) => if lenField w = 0 then .ok i else .error (.nonzeroLength (opcField w) (lenField w))
  | some (.l mk) => .ok (mk ((lenField w).setWidth 32))

/-- The OPC value of a command (R93). -/
def Instr.opcode : Instr → BitVec 8
  | .rbInit => 0x01
  | .rbWrite _ => 0x02
  | .rbRead _ => 0x03
  | .rbFlush _ => 0x04
  | .rbSpan => 0x05
  | .rbClear => 0x06
  | .rbCap => 0x08
  | .rbUsed => 0x09
  | .rbFree => 0x0A
  | .rbEmpty => 0x0B
  | .rbFull => 0x0C
  | .fcDrain => 0x10
  | .svProcess => 0x18
  | .osRead => 0x20
  | .loopStart => 0x30
  | .loopRun => 0x31

/-- The length operand of a command, 0 in format Z (R92). -/
def Instr.len : Instr → Word
  | .rbWrite len => len
  | .rbRead len => len
  | .rbFlush len => len
  | .rbInit => 0
  | .rbSpan => 0
  | .rbClear => 0
  | .rbCap => 0
  | .rbUsed => 0
  | .rbFree => 0
  | .rbEmpty => 0
  | .rbFull => 0
  | .fcDrain => 0
  | .svProcess => 0
  | .osRead => 0
  | .loopStart => 0
  | .loopRun => 0

/-- The command word `(OPC << 24) | len` (R97). -/
def encode (i : Instr) : Word := i.opcode ++ i.len.extractLsb' 0 24

/-- The instruction the decoder reads from a row of spec/opcode_table.json whose bits are `w`: a command is one 32-bit word
(R90), bits above `nbits` are 0, and a value of more than 32 bits is no command word. -/
def decodeTableWord (nbits w : Nat) : Option Instr :=
  if w % 2 ^ nbits < 2 ^ 32 then
    match decode (BitVec.ofNat 32 (w % 2 ^ nbits)) with
    | .ok i => some i
    | .error _ => none
  else none

end Sys2Proof
end

