-- ==== Sys2Proof/Machine/State.lean ====
section
/-! DEFINITION. The architectural state of the RBFC block and of the agents around it (10_state.md, 20_memory.md), as plain
data, the reasons a step can stop, and power-on reset. -/

namespace Sys2Proof.Machine

/-- A byte-addressed space: (index, byte) pairs, indices strictly rising (`Memory.wf`); an index that is not listed holds no
written byte. -/
abbrev Memory := List Host.Cell

/-- `PHASE`, the sequencer's position (R32). -/
inductive Phase where
  /-- No command running. -/
  | idle
  /-- A host-issued FC.DRAIN is suspended in `Wait()`. -/
  | drainWait
  /-- A host-issued FC.DRAIN has left `Wait()` and is about to run `DrainCheck()` again: R156's "the phase it came from (host
  FC.DRAIN)". R32 does not list it; DEDUCED, log 5. -/
  | drainCheck
  /-- LOOP.RUN is about to attempt a drain step. -/
  | runDrain
  /-- LOOP.RUN's drain step is suspended in `Wait()`. -/
  | runWait
  /-- LOOP.RUN is about to run a process step. -/
  | runProcess
  /-- A fatal outcome was taken; absorbing until power-on reset (R233). -/
  | terminated
deriving DecidableEq, Repr

/-- `OUTCOME` (R221). The reserved codes 4 to 15 are never written, so no value stands for them. -/
inductive EndOutcome where
  | none
  | bufferOverflow
  | validationMismatch
  | genericProcessingFailure
deriving DecidableEq, Repr

/-- `CAUSE` (R222). Reserved codes are never written, so no value stands for them. -/
inductive Cause where
  | none
  | bufferOverflow
  | validationMismatch
  | illegalCommand
  | cmdWhileBusy
  | notInitialized
  | initNoStore
  | reinit
  | spanHazard
  | flushExceedsSpan
  | hostAddrWrap
  | upstreamContract
  | restart
deriving DecidableEq, Repr

/-- The levels of the diagnostic sink (R210). -/
inductive Level where
  | debug
  | info
  | error
deriving DecidableEq, Repr

/-- The records of the diagnostic sink, fields in the order of R211. -/
inductive Record where
  | running
  | throughput (bp : Count)
  | overflowDetected (head used cap : Word)
  | mismatch (exp obs : Byte) (head used cap : Word) (bp : Count) (win : List Byte)
  | fatal (outcome : EndOutcome) (cause : Cause) (cmd head used cap : Word) (exp : Byte) (bp : Count) (win : List Byte)
deriving DecidableEq, Repr

/-- The requests the block sends on the upstream port (R12, R60). -/
inductive UpRequest where
  | getContiguous
  | remove (n : Nat)
deriving DecidableEq, Repr

/-- The width of a host access (R37, R62). -/
inductive AccessSize where
  | b8
  | b16
  | b32
deriving DecidableEq, Repr

/-- One action of a host program (R36, R37, R62, R97). -/
inductive HostAction where
  /-- Write the register at an offset. -/
  | writeReg (size : AccessSize) (off : Nat) (v : Word)
  /-- Read the register at an offset. -/
  | readReg (size : AccessSize) (off : Nat)
  /-- Write the store window at an index (always refused, R62). -/
  | writeWindow (size : AccessSize) (i : Nat) (v : Word)
  /-- Read the store window at an index. -/
  | readWindow (size : AccessSize) (i : Nat)
  /-- The host stores a byte to its own data memory (R60). -/
  | storeMem (a : Word) (b : Byte)
  /-- The host loads a byte of its own data memory. -/
  | loadMem (a : Word)
  /-- `wait.idle`: read STATUS until BUSY = 0 (R97). -/
  | waitIdle
  /-- `rb.flush <n>` for any 32-bit count, split into several commands where LEN cannot hold it (R91, log 11). -/
  | flush (n : Word)
  /-- `rb.flush <the value read>` (R98), split like `flush`. -/
  | flushRead
deriving DecidableEq, Repr

/-- A move of the upstream producer between two steps of the core (R75). -/
inductive ProducerMove where
  /-- The answer of `Up.get_contiguous()` becomes `(ptr, len)`. -/
  | publish (ptr len : Nat)
  /-- Write a byte of the FIFO region, the overflow flag among them. -/
  | writeFifo (off : Nat) (b : Byte)
  /-- Raise the notify input (R240). -/
  | notify
deriving DecidableEq, Repr

/-- Which agent or event takes a step (R8, R75, R241, R260). -/
inductive Turn where
  | core
  | host
  | producer (m : ProducerMove)
  | spuriousWake
  | powerOnReset
deriving DecidableEq, Repr

/-- RingBuffer and span state (R20 to R25). -/
structure Ring where
  /-- `STORE`. -/
  store : Memory
  /-- `head`. -/
  head : Word
  /-- `used`. -/
  used : Word
  /-- `INIT_DONE`. -/
  initDone : Bool
  /-- `SPAN_OUT`. -/
  spanOut : Bool
  /-- `SPAN_OFF`. -/
  spanOff : Word
  /-- `SPAN_LEN`. -/
  spanLen : Word
deriving DecidableEq, Repr

/-- Validator state (R26 to R28). -/
structure Validator where
  /-- `expected_next_byte`. -/
  expected : Byte
  /-- `WIN[0 .. WIN_LEN-1]`, newest byte first. -/
  win : List Byte
  /-- `WIN_COUNT`. -/
  winCount : Word
  /-- `bytes_processed`. -/
  bytesProcessed : Count
deriving DecidableEq, Repr

/-- The diagnostic capture registers (R29). -/
structure Diag where
  /-- `DIAG_VALID`. -/
  valid : Bool
  /-- `DIAG_EXP`. -/
  exp : Byte
  /-- `DIAG_OBS`. -/
  obs : Byte
  /-- `DIAG_HEAD`. -/
  head : Word
  /-- `DIAG_USED`. -/
  used : Word
  /-- `DIAG_CAP`. -/
  cap : Word
  /-- `DIAG_BP`. -/
  bp : Count
  /-- `DIAG_WIN[0 .. WIN_LEN-1]`. -/
  win : List Byte
  /-- `DIAG_WIN_COUNT`. -/
  winCount : Word
deriving DecidableEq, Repr

/-- Flow-control and loop state (R30 to R32, R35). -/
structure Control where
  /-- `OVF_SEEN`. -/
  ovfSeen : Bool
  /-- `NOTIFY_PEND`. -/
  notifyPend : Bool
  /-- `PHASE`; TERMINATED is `phase = terminated` (R35). -/
  phase : Phase
  /-- `STARTED`. -/
  started : Bool
  /-- `MISMATCH`. -/
  mismatch : Bool
  /-- `OUTCOME`. -/
  outcome : EndOutcome
  /-- `CAUSE`. -/
  cause : Cause
  /-- `FAULT_CMD`. -/
  faultCmd : Word
  /-- The CONFIG operand LOOP.RUN took at its issue (R81(a)), used until it ends (log 6). -/
  loopConfig : Word
  /-- The WATERMARK operand LOOP.RUN took at its issue (R81(a)), used until it ends (log 6). -/
  loopWatermark : Word
deriving DecidableEq, Repr

/-- The host-visible registers that hold a value of their own (R33, R34, R39, R40). -/
structure HostRegs where
  /-- `CONFIG`. -/
  config : Word
  /-- `WATERMARK`. -/
  watermark : Word
  /-- `ARG`. -/
  arg : Word
  /-- `RESULT`. -/
  result : Word
deriving DecidableEq, Repr

/-- The state of the agents outside the block (R8, R60, R210). Power-on reset does not touch it (R264). -/
structure External where
  /-- Host data memory. -/
  hostMem : Memory
  /-- The external FIFO region. -/
  fifo : Memory
  /-- `ptr` of the producer's current answer to `Up.get_contiguous()`. -/
  upPtr : Nat
  /-- `len` of that answer. -/
  upLen : Nat
  /-- The requests the block has sent on the upstream port, oldest first; the model's own trace, log 8. -/
  upLog : List UpRequest
  /-- `LOG`, the diagnostic sink's records, oldest first. -/
  log : List Record
  /-- What the host's last read returned; the model's own field, log 8. -/
  hostData : Word
  /-- The host actions still to come; the model's own field, log 4. -/
  prog : List HostAction
  /-- Who takes the coming steps; the model's own field, log 3. -/
  turns : List Turn
deriving DecidableEq, Repr

/-- The whole machine. -/
structure State where
  /-- The implementation parameters (R9); no step changes them. -/
  params : Params
  /-- RingBuffer and span state. -/
  ring : Ring
  /-- Validator state. -/
  val : Validator
  /-- Diagnostic capture. -/
  diag : Diag
  /-- Flow control, PHASE and loop bookkeeping. -/
  ctl : Control
  /-- CONFIG, WATERMARK, ARG, RESULT. -/
  regs : HostRegs
  /-- Host memory, FIFO region, upstream port, sink, pending moves. -/
  ext : External
deriving DecidableEq, Repr

/-- Accesses outside a space. R61: "a model that reaches one must treat it as a fault of the model (a bug), never as a value".
Each is safe: the model stops where the spec gives no behaviour, and no state of the invariant `State.Inv` reaches one. -/
inductive Fault where
  /-- Raised by `storeRead` and `storeWrite` for an index `>= CAP` (R61). Safe. -/
  | storeIndex (i : Nat)
  /-- Raised by `memRead` and `memWrite` for an address `>= 2^32` (R63). Safe. -/
  | hostAddress (a : Nat)
  /-- Raised by `fifoRead` for an offset `>= FIFO_SIZE` (R65). Safe. -/
  | fifoOffset (i : Nat)
deriving DecidableEq, Repr

/-- Actions for which the spec gives an agent no step. Each is safe: nothing is claimed of what follows. -/
inductive Refusal where
  /-- A command without a meaning, by its mnemonic; raised by `exec`'s arms only, and by none of them now. Safe. -/
  | notModelled (mnemonic : String)
  /-- Raised by `hostMove` for a register access that is not 32-bit, aligned and mapped (R37). Safe. -/
  | hostRegisterAccess
  /-- Raised by `hostMove` for a store-window write, a wide access or an index `>= CAP` (R62). Safe. -/
  | storeWindowAccess
  /-- Raised by `producerMove` for a write outside the FIFO region (R60, log 10). Safe. -/
  | producerOutsideFifo
deriving DecidableEq, Repr

/-- The outcome of a step of this machine. -/
abbrev Out := Host.Outcome State Fault Refusal

/-- `CAP` as a 32-bit register value (R10, R36). -/
def Params.capWord (p : Params) : Word := BitVec.ofNat 32 p.cap

/-- RingBuffer state after power-on reset (R45): STORE is not written (R262). -/
def Ring.powerOn (store : Memory) : Ring :=
  { store := store, head := 0, used := 0, initDone := false, spanOut := false, spanOff := 0, spanLen := 0 }

/-- Validator state after power-on reset (R45). -/
def Validator.powerOn (p : Params) : Validator :=
  { expected := Config.initExpected, win := List.replicate p.winLen 0, winCount := 0, bytesProcessed := 0 }

/-- The diagnostic capture after power-on reset (R45). -/
def Diag.powerOn (p : Params) : Diag :=
  { valid := false, exp := 0, obs := 0, head := 0, used := 0, cap := 0, bp := 0, win := List.replicate p.winLen 0, winCount := 0 }

/-- Flow-control and loop state after power-on reset (R45); the reset value of the two `loop` fields is the model's (DESIGN CHOICE, log 6). -/
def Control.powerOn : Control :=
  { ovfSeen := false, notifyPend := false, phase := .idle, started := false, mismatch := false, outcome := .none, cause := .none,
    faultCmd := 0, loopConfig := 0, loopWatermark := 0 }

/-- The host registers after power-on reset (R45). -/
def HostRegs.powerOn (p : Params) : HostRegs :=
  { config := if p.mismatchFatalReset then 1 else 0, watermark := Params.capWord p, arg := 0, result := 0 }

/-- Power-on reset (R260): every register of the block takes its value of R45 in one step; STORE (R262) and everything outside
the block (R264) keep their contents. -/
def State.powerOnReset (s : State) : State :=
  { params := s.params
    ring := Ring.powerOn s.ring.store
    val := Validator.powerOn s.params
    diag := Diag.powerOn s.params
    ctl := Control.powerOn
    regs := HostRegs.powerOn s.params
    ext := s.ext }

/-- The agents around the block when nothing has happened yet: no byte written, no run published, no record, nothing pending
(DESIGN CHOICE, log 8). -/
def External.initial : External :=
  { hostMem := [], fifo := [], upPtr := 0, upLen := 0, upLog := [], log := [], hostData := 0, prog := [], turns := [] }

/-- The machine right after its first power-on reset, for any parameters (R45). -/
def State.powerOn (p : Params) : State :=
  { params := p
    ring := Ring.powerOn []
    val := Validator.powerOn p
    diag := Diag.powerOn p
    ctl := Control.powerOn
    regs := HostRegs.powerOn p
    ext := External.initial }

/-- The machine right after reset, with the parameters of 95_test_vectors.md (DESIGN CHOICE, log 1). -/
def State.reset : State := State.powerOn Params.reference

end Sys2Proof.Machine
end

