-- ==== Sys2Proof/Machine/Flags.lean ====
section
/-! DEFINITION. Every status flag of 10_state.md R41 and R44, the OUTCOME and CAUSE codes of 60_exceptions.md R221 and R222, and
the STATUS word. -/

namespace Sys2Proof.Machine

/-- The OUTCOME code (R221). -/
def EndOutcome.code : EndOutcome → BitVec 4
  | .none => 0
  | .bufferOverflow => 1
  | .validationMismatch => 2
  | .genericProcessingFailure => 3

/-- The CAUSE code (R222). -/
def Cause.code : Cause → BitVec 8
  | .none => 0x00
  | .bufferOverflow => 0x01
  | .validationMismatch => 0x02
  | .illegalCommand => 0x10
  | .cmdWhileBusy => 0x11
  | .notInitialized => 0x12
  | .initNoStore => 0x13
  | .reinit => 0x14
  | .spanHazard => 0x15
  | .flushExceedsSpan => 0x16
  | .hostAddrWrap => 0x17
  | .upstreamContract => 0x18
  | .restart => 0x19

/-- The OUTCOME column of R222. -/
def Cause.outcome : Cause → EndOutcome
  | .none => .none
  | .bufferOverflow => .bufferOverflow
  | .validationMismatch => .validationMismatch
  | .illegalCommand => .genericProcessingFailure
  | .cmdWhileBusy => .genericProcessingFailure
  | .notInitialized => .genericProcessingFailure
  | .initNoStore => .genericProcessingFailure
  | .reinit => .genericProcessingFailure
  | .spanHazard => .genericProcessingFailure
  | .flushExceedsSpan => .genericProcessingFailure
  | .hostAddrWrap => .genericProcessingFailure
  | .upstreamContract => .genericProcessingFailure
  | .restart => .genericProcessingFailure

/-- The level column of R211. -/
def Record.level : Record → Level
  | .running => .info
  | .throughput _ => .info
  | .overflowDetected _ _ _ => .error
  | .mismatch _ _ _ _ _ _ _ => .error
  | .fatal _ _ _ _ _ _ _ _ _ => .error

/-- BUSY: `PHASE` is not IDLE and not TERMINATED (R41). -/
def Phase.busy : Phase → Bool
  | .idle => false
  | .drainWait => true
  | .drainCheck => true
  | .runDrain => true
  | .runWait => true
  | .runProcess => true
  | .terminated => false

/-- WAITING: `PHASE` is DRAIN_WAIT or RUN_WAIT (R41). -/
def Phase.waiting : Phase → Bool
  | .idle => false
  | .drainWait => true
  | .drainCheck => false
  | .runDrain => false
  | .runWait => true
  | .runProcess => false
  | .terminated => false

/-- STATUS.BUSY. -/
def State.isBusy (s : State) : Bool := s.ctl.phase.busy

/-- STATUS.WAITING. -/
def State.isWaiting (s : State) : Bool := s.ctl.phase.waiting

/-- STATUS.TERMINATED: `PHASE = TERMINATED` (R35). -/
def State.isTerminated (s : State) : Bool := decide (s.ctl.phase = .terminated)

/-- STATUS.EMPTY: `used = 0` (R41). -/
def State.isEmpty (s : State) : Bool := decide (s.ring.used.toNat = 0)

/-- STATUS.FULL: `used = CAP` (R41). -/
def State.isFull (s : State) : Bool := decide (s.ring.used.toNat = s.params.cap)

/-- CONFIG.MISMATCH_FATAL (R33). -/
def mismatchFatal (config : Word) : Bool := config.getLsbD 0

/-- The value an introspection command gives for a flag: 1 or 0 (R124, R125). -/
def flagWord (b : Bool) : Word := if b then 1 else 0

/-- The STATUS register, most significant field first (R41). -/
def State.statusWord (s : State) : Word :=
  (0 : BitVec 8) ++ s.ctl.cause.code ++ s.ctl.outcome.code ++ (0 : BitVec 1) ++ BitVec.ofBool s.ctl.notifyPend ++
    BitVec.ofBool s.isTerminated ++ BitVec.ofBool s.ctl.mismatch ++ BitVec.ofBool s.ctl.started ++ BitVec.ofBool s.ring.spanOut ++
    BitVec.ofBool s.ctl.ovfSeen ++ BitVec.ofBool s.isFull ++ BitVec.ofBool s.isEmpty ++ BitVec.ofBool s.isWaiting ++
    BitVec.ofBool s.isBusy ++ BitVec.ofBool s.ring.initDone

end Sys2Proof.Machine
end

