-- ==== Sys2Proof/Machine/Memory.lean ====
section
/-! DEFINITION. The byte memories behind STORE, HOST and FIFO (20_memory.md R60 to R65): one canonical form, one read, one write,
and the fallible accesses of each space. -/

namespace Sys2Proof.Machine

/-- The byte written last at an index, if any was. -/
def Memory.find : Memory → Nat → Option Byte
  | [], _ => none
  | c :: m, i => if c.1 = i then some c.2 else Memory.find m i

/-- Write one byte; the list stays in rising order with one entry per index. -/
def Memory.write : Memory → Nat → Byte → Memory
  | [], i, b => [(i, b)]
  | c :: m, i, b => if i < c.1 then (i, b) :: c :: m else if c.1 = i then (i, b) :: m else c :: Memory.write m i b

/-- Every index of the list is above `i`, and the list is strictly rising. -/
def Memory.risesAbove : Nat → Memory → Bool
  | _, [] => true
  | i, c :: m => decide (i < c.1) && Memory.risesAbove c.1 m

/-- The canonical form: indices strictly rising. An unlisted index holds no written byte, so no entry can equal it. -/
def Memory.wf : Memory → Bool
  | [] => true
  | c :: m => Memory.risesAbove c.1 m

/-- Every listed index is below a bound. -/
def Memory.below (bound : Nat) : Memory → Bool
  | [] => true
  | c :: m => decide (c.1 < bound) && Memory.below bound m

/-- What byte `i` of a space reads as: the byte written last, else the free value `Config.unwrittenByte` (R45, R62, log 2). -/
def Memory.byte (sp : Space) (m : Memory) (i : Nat) : Byte :=
  match Memory.find m i with
  | some b => b
  | none => Config.unwrittenByte sp i

/-- `StoreRead(i)` (R61). -/
def storeRead (s : State) (i : Nat) : Except Fault Byte :=
  if i < s.params.cap then .ok (Memory.byte .store s.ring.store i) else .error (.storeIndex i)

/-- `StoreWrite(i, b)` (R61). -/
def storeWrite (s : State) (i : Nat) (b : Byte) : Except Fault State :=
  if i < s.params.cap then .ok { s with ring.store := Memory.write s.ring.store i b } else .error (.storeIndex i)

/-- `MemRead(a, 1)` (R63). -/
def memRead (s : State) (a : Nat) : Except Fault Byte :=
  if a < 2 ^ Config.hostAw then .ok (Memory.byte .host s.ext.hostMem a) else .error (.hostAddress a)

/-- `MemWrite(a, 1, b)` (R63). -/
def memWrite (s : State) (a : Nat) (b : Byte) : Except Fault State :=
  if a < 2 ^ Config.hostAw then .ok { s with ext.hostMem := Memory.write s.ext.hostMem a b } else .error (.hostAddress a)

/-- `FifoRead(i)` (R65). -/
def fifoRead (s : State) (i : Nat) : Except Fault Byte :=
  if i < s.params.fifoSize then .ok (Memory.byte .fifo s.ext.fifo i) else .error (.fifoOffset i)

/-- Read `n` bytes at rising indices from `i`, in order (R66). -/
def readRun (read : Nat → Except Fault Byte) : Nat → Nat → Except Fault (List Byte)
  | _, 0 => .ok []
  | i, n + 1 =>
    match read i with
    | .error f => .error f
    | .ok b =>
      match readRun read (i + 1) n with
      | .error f => .error f
      | .ok bs => .ok (b :: bs)

/-- Write bytes at rising indices from `i`, in order (R66). -/
def writeRun (write : State → Nat → Byte → Except Fault State) : State → Nat → List Byte → Except Fault State
  | s, _, [] => .ok s
  | s, i, b :: bs =>
    match write s i b with
    | .error f => .error f
    | .ok s' => writeRun write s' (i + 1) bs

end Sys2Proof.Machine
end

