-- ==== Sys2Proof/Machine/Operands.lean ====
section
/-! DEFINITION. The operands of the commands: the columns of the opcode map (30_encoding.md R93), the counts, the host address
range (41_ringbuffer.md R112) and the contiguous span (R119). -/

namespace Sys2Proof.Machine

/-- The "needs INIT" column of R93. -/
def needsInit : Instr → Bool
  | .rbInit => false
  | .rbWrite _ => true
  | .rbRead _ => true
  | .rbFlush _ => true
  | .rbSpan => true
  | .rbClear => true
  | .rbCap => false
  | .rbUsed => true
  | .rbFree => true
  | .rbEmpty => true
  | .rbFull => true
  | .fcDrain => true
  | .svProcess => true
  | .osRead => false
  | .loopStart => false
  | .loopRun => true

/-- The "mutates" column of R93. -/
def mutates : Instr → Bool
  | .rbInit => true
  | .rbWrite _ => true
  | .rbRead _ => true
  | .rbFlush _ => true
  | .rbSpan => false
  | .rbClear => true
  | .rbCap => false
  | .rbUsed => false
  | .rbFree => false
  | .rbEmpty => false
  | .rbFull => false
  | .fcDrain => true
  | .svProcess => true
  | .osRead => false
  | .loopStart => false
  | .loopRun => true

/-- RB.FLUSH, the one mutating command a span outstanding permits (R93, R235). -/
def isFlush : Instr → Bool
  | .rbFlush _ => true
  | .rbInit => false
  | .rbWrite _ => false
  | .rbRead _ => false
  | .rbSpan => false
  | .rbClear => false
  | .rbCap => false
  | .rbUsed => false
  | .rbFree => false
  | .rbEmpty => false
  | .rbFull => false
  | .fcDrain => false
  | .svProcess => false
  | .osRead => false
  | .loopStart => false
  | .loopRun => false

/-- `free() = capacity-used` (R14, R123). -/
def State.freeBytes (s : State) : Nat := s.params.cap - s.ring.used.toNat

/-- How many of `len` offered bytes an insertion accepts: `min(len, CAP - used)` (R114, R152, 90_conflicts.md C6). -/
def State.accepted (s : State) (len : Nat) : Nat := min len s.freeBytes

/-- How many of `len` asked bytes a removal takes: `min(len, used)` (R116, R117, C6). -/
def State.available (s : State) (len : Nat) : Nat := min len s.ring.used.toNat

/-- `HostRangeOK(a, n)` (R112). -/
def hostRangeOk (a n : Nat) : Bool := decide (n = 0) || decide (a + n - 1 ≤ 2 ^ Config.hostAw - 1)

/-- The length of the contiguous read span: `min(used, CAP - head)`, 0 in an empty buffer (R119). -/
def State.spanLength (s : State) : Nat :=
  if s.ring.used.toNat = 0 then 0 else min s.ring.used.toNat (s.params.cap - s.ring.head.toNat)

/-- The physical index of logical offset `k`: `(head + k) mod CAP` (R13). -/
def State.ringIndex (s : State) (k : Nat) : Nat := (s.ring.head.toNat + k) % s.params.cap

/-- The watermark arbiter's test `used > WATERMARK` (R151). -/
def State.aboveWatermark (s : State) (watermark : Word) : Bool := decide (watermark.toNat < s.ring.used.toNat)

end Sys2Proof.Machine
end

