-- ==== Sys2Proof/Machine/Ops.lean ====
section
/-! DEFINITION. The named operations the meanings share: the sink, completion, termination, the common checks of R235, ring
insertion and removal, and the wait primitive. -/

namespace Sys2Proof.Machine

/-- `Emit(rec)` (R12, R210). -/
def State.emit (s : State) (r : Record) : State := { s with ext.log := s.ext.log ++ [r] }

/-- `PHASE <- p`. -/
def State.setPhase (s : State) (p : Phase) : State := { s with ctl.phase := p }

/-- `complete(result)`: RESULT takes the result and BUSY becomes 0 (R12, R40). -/
def State.complete (s : State) (result : Word) : State := { s with regs.result := result, ctl.phase := .idle }

/-- The termination registers of R230, before its record. -/
def State.markTerminated (s : State) (outcome : EndOutcome) (cause : Cause) (word : Word) : State :=
  { s with ctl.outcome := outcome, ctl.cause := cause, ctl.faultCmd := word, ctl.phase := .terminated }

/-- The `Fatal` record of R230 for the current state. -/
def State.fatalRecord (s : State) (outcome : EndOutcome) (cause : Cause) (word : Word) : Record :=
  .fatal outcome cause word s.ring.head s.ring.used (Params.capWord s.params) s.val.expected s.val.bytesProcessed s.val.win

/-- TAKING AN EXCEPTION: `terminate(outcome, cause)` (R230). `word` is the command being executed or the rejected CMD write.
There is no handler and no return (R232, R233); only power-on reset (`State.powerOnReset`) leaves the terminated state. -/
def State.terminate (s : State) (outcome : EndOutcome) (cause : Cause) (word : Word) : State :=
  (s.markTerminated outcome cause word).emit (s.fatalRecord outcome cause word)

/-- `raise Fault(cause)` (R230). -/
def State.raiseFault (s : State) (cause : Cause) (word : Word) : State :=
  s.terminate .genericProcessingFailure cause word

/-- Checks 1 and 2 of R235, which precede decoding: a CMD write has no effect once terminated, and faults while a command
runs. -/
def acceptCmd (word : Word) (s : State) (run : Out) : Out :=
  if s.isTerminated then .next s
  else if s.isBusy then .next (s.raiseFault .cmdWhileBusy word)
  else run

/-- Checks 4 to 7 of R235, in order: the cause of the first that applies to a decoded command. -/
def violated (i : Instr) (s : State) : Option Cause :=
  if needsInit i && !s.ring.initDone then some .notInitialized
  else if decide (i = .rbInit) && s.ring.initDone then some .reinit
  else if mutates i && !isFlush i && s.ring.spanOut then some .spanHazard
  else if decide (i = .loopStart) && s.ctl.started then some .restart
  else none

/-- The common checks before a decoded command, then its own body (R235). -/
def commonChecks (i : Instr) (s : State) (body : Out) : Out :=
  acceptCmd (encode i) s
    (match violated i s with
     | some cause => .next (s.raiseFault cause (encode i))
     | none => body)

/-- `used <- used + n`, the last line of RingPut (R113). -/
def State.addUsed (s : State) (n : Nat) : State := { s with ring.used := BitVec.ofNat 32 (s.ring.used.toNat + n) }

/-- `RingPut(n, src)` with the `n` source bytes already in order (R113): a tail segment up to the end of the store, then a
segment from index 0. -/
def ringPut (s : State) (bytes : List Byte) : Except Fault State :=
  if bytes.length = 0 then .ok s
  else
    let ins := s.ringIndex s.ring.used.toNat
    let first := min bytes.length (s.params.cap - ins)
    match writeRun storeWrite s ins (bytes.take first) with
    | .error f => .error f
    | .ok s1 =>
      match writeRun storeWrite s1 0 (bytes.drop first) with
      | .error f => .error f
      | .ok s2 => .ok (s2.addUsed bytes.length)

/-- The bytes RingTake delivers, in logical order from `head`, with the wraparound split (R115). -/
def ringPeek (s : State) (n : Nat) : Except Fault (List Byte) :=
  if n = 0 then .ok []
  else
    let first := min n (s.params.cap - s.ring.head.toNat)
    match readRun (storeRead s) s.ring.head.toNat first with
    | .error f => .error f
    | .ok tail =>
      match readRun (storeRead s) 0 (n - first) with
      | .error f => .error f
      | .ok wrapped => .ok (tail ++ wrapped)

/-- RingTake without a destination: `head` and `used` advance, nothing is copied (R115). -/
def ringDrop (s : State) (n : Nat) : State :=
  if n = 0 then s
  else { s with ring.head := BitVec.ofNat 32 (s.ringIndex n), ring.used := BitVec.ofNat 32 (s.ring.used.toNat - n) }

/-- `head <- 0; used <- 0`, common to RB.INIT and RB.CLEAR (R111, R118, R263). -/
def State.zeroRing (s : State) : State := { s with ring.head := 0, ring.used := 0 }

/-- `Up.get_contiguous()`: the producer's current answer, without side effect on the block (R68, R70); the request is traced. -/
def State.askUpstream (s : State) : State := { s with ext.upLog := s.ext.upLog ++ [.getContiguous] }

/-- `Up.remove(n)` (R72): the first `n` bytes of the run go back to the producer, so its answer is the rest of the run until it
publishes another one (R70, R153, R75; DEDUCED, log 7). -/
def State.removeUpstream (s : State) (n : Nat) : State :=
  { s with ext.upPtr := s.ext.upPtr + n, ext.upLen := s.ext.upLen - n, ext.upLog := s.ext.upLog ++ [.remove n] }

/-- The phase a wake returns to: "the phase it came from (host FC.DRAIN, or RUN_DRAIN)" (R156). -/
def Phase.wakesTo : Phase → Phase
  | .drainWait => .drainCheck
  | .runWait => .runDrain
  | .idle => .idle
  | .drainCheck => .drainCheck
  | .runDrain => .runDrain
  | .runProcess => .runProcess
  | .terminated => .terminated

/-- Wake (a) of R156: a pending notification is consumed and the wait ends. -/
def State.wakeOnNotify (s : State) : State := { s with ctl.notifyPend := false, ctl.phase := s.ctl.phase.wakesTo }

/-- Wake (b) of R156, R241: a spurious wake ends the wait and changes nothing else; outside a wait it is nothing. -/
def State.wakeSpurious (s : State) : State := { s with ctl.phase := s.ctl.phase.wakesTo }

/-- The notify input (R240): NOTIFY_PEND is set if NOTIFY_LATCHED holds or the core is waiting. -/
def State.notify (s : State) : State :=
  if s.params.notifyLatched || s.isWaiting then { s with ctl.notifyPend := true } else s

end Sys2Proof.Machine
end

