-- ==== Sys2Proof/Machine/FlowControl.lean ====
section
/-! DEFINITION. The FlowController drain step (42_flowcontrol.md) and the OverflowSentinel read (44_sentinel.md). -/

namespace Sys2Proof.Machine

/-- What `DrainCheck()` returns (R152). -/
inductive DrainResult where
  /-- `Done(n)`. -/
  | done (n : Nat) (s : State)
  /-- `Fatal`, or a fault raised by the check: the block has terminated. -/
  | fatal (s : State)
  /-- `Block`. -/
  | block (s : State)
  /-- An access outside a space (R61): a fault of the model. -/
  | broken (f : Fault)
deriving DecidableEq, Repr

/-- The range conditions of R70 on a nonempty run: inside the FIFO region and not covering the overflow flag. -/
def runAllowed (p : Params) (ptr len : Nat) : Bool :=
  decide (ptr + len ≤ p.fifoSize) && !(decide (ptr ≤ p.ovfOffset) && decide (p.ovfOffset < ptr + len))

/-- The transfer branch of `DrainCheck()` for a run the contract allows (R152, R153). -/
def drainTransfer (s : State) : DrainResult :=
  let n := s.accepted s.ext.upLen
  match readRun (fifoRead s) s.ext.upPtr n with
  | .error f => .broken f
  | .ok bytes =>
    match ringPut s bytes with
    | .error f => .broken f
    | .ok s' => .done n (s'.removeUpstream n)

/-- The latch and the edge log of R155 for a flag byte just read. -/
def State.latchOverflow (s : State) (flag : Byte) : State :=
  if decide (flag ≠ 0) && !s.ctl.ovfSeen then
    State.emit { s with ctl.ovfSeen := true } (.overflowDetected s.ring.head s.ring.used (Params.capWord s.params))
  else s

/-- The branch of `DrainCheck()` with nothing upstream (R152, R154). -/
def drainIdle (word : Word) (s : State) : DrainResult :=
  match fifoRead s s.params.ovfOffset with
  | .error f => .broken f
  | .ok flag =>
    let s1 := s.latchOverflow flag
    if s1.ctl.ovfSeen && s1.isEmpty then .fatal (s1.terminate .bufferOverflow .bufferOverflow word)
    else if s1.isEmpty then .block s1
    else .done 0 s1

/-- `DrainCheck()`, one atomic step of the core (R152); `word` is the running command. -/
def drainCheck (word : Word) (s : State) : DrainResult :=
  let s0 := s.askUpstream
  if 0 < s.ext.upLen then
    if runAllowed s.params s.ext.upPtr s.ext.upLen then drainTransfer s0
    else .fatal (s0.raiseFault .upstreamContract word)
  else drainIdle word s0

/-- What a host-issued FC.DRAIN does with the result of a drain check (R150, R157). -/
def drainFinish : DrainResult → Out
  | .done n s => .next (s.complete (BitVec.ofNat 32 n))
  | .fatal s => .next s
  | .block s => .next (s.setPhase .drainWait)
  | .broken f => .fault f

/-- FC.DRAIN (R150): the watermark arbiter (R151), then the drain check. -/
def execFcDrain (s : State) : Out :=
  commonChecks .fcDrain s
    (if s.aboveWatermark s.regs.watermark then .next (s.complete 0) else drainFinish (drainCheck (encode .fcDrain) s))

/-- A host-issued FC.DRAIN after a wake: the drain check again, as a new atomic step (R156). -/
def drainResume (s : State) : Out := drainFinish (drainCheck (encode .fcDrain) s)

/-- OS.READ (R190): the producer's current flag byte, zero-extended. -/
def execOsRead (s : State) : Out :=
  commonChecks .osRead s
    (match fifoRead s s.params.ovfOffset with
     | .error f => .fault f
     | .ok flag => .next (s.complete (flag.setWidth 32)))

end Sys2Proof.Machine
end

