-- ==== Sys2Proof/Machine/Validator.lean ====
section
/-! DEFINITION. The SequenceValidator process step (43_validator.md). -/

namespace Sys2Proof.Machine

/-- The window after pushing `b`: every entry moves one place on and `WIN[0]` is `b` (R27). -/
def pushWindow (winLen : Nat) (win : List Byte) (b : Byte) : List Byte := (b :: win).take winLen

/-- `WIN_COUNT` after a push: `min(WIN_COUNT + 1, WIN_LEN)` (R27). -/
def pushCount (winLen : Nat) (count : Word) : Word := BitVec.ofNat 32 (min (count.toNat + 1) winLen)

/-- The counting and the window push of one byte (R170, R237). -/
def State.countByte (s : State) (b : Byte) : State :=
  { s with
    val.bytesProcessed := s.val.bytesProcessed + 1
    val.win := pushWindow s.params.winLen s.val.win b
    val.winCount := pushCount s.params.winLen s.val.winCount }

/-- `Capture(e, b)` with `e` the expected byte (R173). -/
def State.capture (s : State) (b : Byte) : State :=
  { s with diag :=
    { valid := true, exp := s.val.expected, obs := b, head := s.ring.head, used := s.ring.used, cap := Params.capWord s.params,
      bp := s.val.bytesProcessed, win := s.val.win, winCount := s.val.winCount } }

/-- `expected_next_byte <- b + 1 mod 256` (R171, R172): on a match `b` is the expected byte itself. -/
def State.resync (s : State) (b : Byte) : State := { s with val.expected := b + 1 }

/-- The throughput record, if due (R175, R212). -/
def State.markThroughput (s : State) : State :=
  if s.val.bytesProcessed.toNat % Config.throughputPeriod = 0 then s.emit (.throughput s.val.bytesProcessed) else s

/-- One byte examined: count, push, compare, capture on a mismatch, advance or resynchronise, throughput record (R237). -/
def State.examine (s : State) (b : Byte) : State :=
  let s1 := s.countByte b
  let s2 := if b = s1.val.expected then s1 else s1.capture b
  (s2.resync b).markThroughput

/-- The bytes of one span: `n` of them from store index `i`, `k` examined so far. Stops after a mismatch; answers the number
examined and whether the last one mismatched (R170). -/
def examineSpan : Nat → Nat → Nat → State → Except Fault (Nat × Bool × State)
  | 0, _, k, s => .ok (k, false, s)
  | n + 1, i, k, s =>
    match storeRead s i with
    | .error f => .error f
    | .ok b => if b = s.val.expected then examineSpan n (i + 1) (k + 1) (s.examine b) else .ok (k + 1, true, s.examine b)

/-- What the process step ends with (R170). -/
inductive ProcessResult where
  /-- The step is complete; `total` bytes were examined. -/
  | done (total : Nat) (s : State)
  /-- A fatal mismatch terminated the block. -/
  | fatal (s : State)
  /-- An access outside a space (R61): a fault of the model. -/
  | broken (f : Fault)
deriving DecidableEq, Repr

/-- The `Mismatch` record of the last capture (R211). -/
def State.mismatchRecord (s : State) : Record :=
  .mismatch s.diag.exp s.diag.obs s.diag.head s.diag.used s.diag.cap s.diag.bp s.diag.win

/-- The end of a step that mismatched: flag, record, and termination under the fatal policy (R170, R177). -/
def processMismatch (fatal : Bool) (word : Word) (total : Nat) (s : State) : ProcessResult :=
  let s1 := State.emit { s with ctl.mismatch := true } s.mismatchRecord
  if fatal then .fatal (s1.terminate .validationMismatch .validationMismatch word) else .done total s1

/-- The repeated spans of the step (R170, R176). Each round with a nonempty span takes at least one byte, so `used + 1` rounds
are enough (`fuel`). -/
def processSpans (fatal : Bool) (word : Word) : Nat → Nat → State → ProcessResult
  | 0, total, s => .done total s
  | fuel + 1, total, s =>
    if s.spanLength = 0 then .done total s
    else
      match examineSpan s.spanLength s.ring.head.toNat 0 s with
      | .error f => .broken f
      | .ok (k, mm, s1) =>
        if mm then processMismatch fatal word (total + k) (ringDrop s1 k)
        else processSpans fatal word fuel (total + k) (ringDrop s1 k)

/-- The body of SV.PROCESS (R170): MISMATCH is cleared, then the spans are examined. -/
def processBody (config : Word) (word : Word) (s : State) : ProcessResult :=
  processSpans (mismatchFatal config) word (s.ring.used.toNat + 1) 0 { s with ctl.mismatch := false }

/-- What a host-issued SV.PROCESS does with the result of the body (R170, R177). -/
def processFinish : ProcessResult → Out
  | .done total s => .next (s.complete (BitVec.ofNat 32 total))
  | .fatal s => .next s
  | .broken f => .fault f

/-- SV.PROCESS (R170). -/
def execSvProcess (s : State) : Out :=
  commonChecks .svProcess s (processFinish (processBody s.regs.config (encode .svProcess) s))

end Sys2Proof.Machine
end

