-- ==== Sys2Proof/Machine/Loop.lean ====
section
/-! DEFINITION. The control loop (45_control_loop.md) and the steps the core takes on its own (42_flowcontrol.md R156,
45_control_loop.md R203). -/

namespace Sys2Proof.Machine

/-- `STARTED <- 1; Emit(Running)` (R200, R202). -/
def State.markStarted (s : State) : State := State.emit { s with ctl.started := true } .running

/-- LOOP.START (R200); its RESTART check is among the common checks (R235). -/
def execLoopStart (s : State) : Out := commonChecks .loopStart s (.next (s.markStarted.complete 0))

/-- LOOP.RUN takes CONFIG and WATERMARK at its issue (R81(a)) and enters RUN_DRAIN (R202). -/
def State.enterLoop (s : State) : State :=
  { s with ctl.loopConfig := s.regs.config, ctl.loopWatermark := s.regs.watermark, ctl.phase := .runDrain }

/-- LOOP.RUN (R202): it never completes and never writes RESULT. -/
def execLoopRun (s : State) : Out :=
  commonChecks .loopRun s (.next (if s.ctl.started then s.enterLoop else s.markStarted.enterLoop))

/-- What LOOP.RUN does with the result of its drain check (R203). -/
def runDrainFinish : DrainResult → Out
  | .done _ s => .next (s.setPhase .runProcess)
  | .fatal s => .next s
  | .block s => .next (s.setPhase .runWait)
  | .broken f => .fault f

/-- The RUN_DRAIN step (R203), with the WATERMARK of the issue (R81(a), log 6). -/
def runDrainStep (s : State) : Out :=
  if s.aboveWatermark s.ctl.loopWatermark then .next (s.setPhase .runProcess) else runDrainFinish (drainCheck (encode .loopRun) s)

/-- What LOOP.RUN does with the result of its process step (R203): RESULT is not written. -/
def runProcessFinish : ProcessResult → Out
  | .done _ s => .next (s.setPhase .runDrain)
  | .fatal s => .next s
  | .broken f => .fault f

/-- The RUN_PROCESS step (R203), with the CONFIG of the issue (R81(a), log 6). -/
def runProcessStep (s : State) : Out := runProcessFinish (processBody s.ctl.loopConfig (encode .loopRun) s)

/-- A waiting core: it leaves `Wait()` on a pending notification, else it takes no step (R156 (a)). -/
def waitStep (s : State) : Out := if s.ctl.notifyPend then .next s.wakeOnNotify else .next s

/-- The core's own step in each PHASE (R43, R156, R203). -/
def coreMove (s : State) : Out :=
  match s.ctl.phase with
  | .idle => .next s
  | .terminated => .next s
  | .drainWait => waitStep s
  | .runWait => waitStep s
  | .drainCheck => drainResume s
  | .runDrain => runDrainStep s
  | .runProcess => runProcessStep s

/-- Whether the core has a step to take on its own. -/
def coreReady (s : State) : Bool :=
  match s.ctl.phase with
  | .idle => false
  | .terminated => false
  | .drainWait => s.ctl.notifyPend
  | .runWait => s.ctl.notifyPend
  | .drainCheck => true
  | .runDrain => true
  | .runProcess => true

end Sys2Proof.Machine
end

