-- ==== Sys2Proof/Machine/RingBuffer.lean ====
section
/-! DEFINITION. The RingBuffer commands (41_ringbuffer.md). The common checks of R235 come first; each body is the command's
pseudocode. -/

namespace Sys2Proof.Machine

/-- RB.INIT (R111). -/
def execRbInit (s : State) : Out :=
  commonChecks .rbInit s
    (if decide (0 < s.params.cap) && !s.params.storePresent then .next (s.raiseFault .initNoStore (encode .rbInit))
     else .next (State.complete
       { s.zeroRing with ring.spanOut := false, ring.spanOff := 0, ring.spanLen := 0, ring.initDone := true } 0))

/-- RB.WRITE (R114): the accepted bytes go from host memory at ARG into the ring. -/
def execRbWrite (len : Word) (s : State) : Out :=
  commonChecks (.rbWrite len) s
    (let n := s.accepted len.toNat
     if hostRangeOk s.regs.arg.toNat n then
       match readRun (memRead s) s.regs.arg.toNat n with
       | .error f => .fault f
       | .ok bytes =>
         match ringPut s bytes with
         | .error f => .fault f
         | .ok s' => .next (s'.complete (BitVec.ofNat 32 n))
     else .next (s.raiseFault .hostAddrWrap (encode (.rbWrite len))))

/-- RB.READ (R116): the oldest bytes of the ring go to host memory at ARG. -/
def execRbRead (len : Word) (s : State) : Out :=
  commonChecks (.rbRead len) s
    (let n := s.available len.toNat
     if hostRangeOk s.regs.arg.toNat n then
       match ringPeek s n with
       | .error f => .fault f
       | .ok bytes =>
         match writeRun memWrite s s.regs.arg.toNat bytes with
         | .error f => .fault f
         | .ok s' => .next ((ringDrop s' n).complete (BitVec.ofNat 32 n))
     else .next (s.raiseFault .hostAddrWrap (encode (.rbRead len))))

/-- RB.FLUSH (R117): the oldest bytes are discarded and an outstanding span is released. -/
def execRbFlush (len : Word) (s : State) : Out :=
  commonChecks (.rbFlush len) s
    (if s.ring.spanOut && decide (s.ring.spanLen.toNat < len.toNat) then
       .next (s.raiseFault .flushExceedsSpan (encode (.rbFlush len)))
     else
       let n := s.available len.toNat
       .next (State.complete { ringDrop s n with ring.spanOut := false } (BitVec.ofNat 32 n)))

/-- RB.SPAN (R120). -/
def execRbSpan (s : State) : Out :=
  commonChecks .rbSpan s
    (.next (State.complete
      { s with ring.spanOff := s.ring.head, ring.spanLen := BitVec.ofNat 32 s.spanLength, ring.spanOut := true }
      (BitVec.ofNat 32 s.spanLength)))

/-- RB.CLEAR (R118): STORE is not wiped. -/
def execRbClear (s : State) : Out := commonChecks .rbClear s (.next (s.zeroRing.complete 0))

/-- RB.CAP (R121). -/
def execRbCap (s : State) : Out := commonChecks .rbCap s (.next (s.complete (Params.capWord s.params)))

/-- RB.USED (R122). -/
def execRbUsed (s : State) : Out := commonChecks .rbUsed s (.next (s.complete s.ring.used))

/-- RB.FREE (R123). -/
def execRbFree (s : State) : Out := commonChecks .rbFree s (.next (s.complete (BitVec.ofNat 32 s.freeBytes)))

/-- RB.EMPTY (R124). -/
def execRbEmpty (s : State) : Out := commonChecks .rbEmpty s (.next (s.complete (flagWord s.isEmpty)))

/-- RB.FULL (R125). -/
def execRbFull (s : State) : Out := commonChecks .rbFull s (.next (s.complete (flagWord s.isFull)))

end Sys2Proof.Machine
end

