-- ==== Sys2Proof/Machine/Dispatch.lean ====
section
/-! DEFINITION. Which meaning each command has: one arm per constructor of `Instr`. -/

namespace Sys2Proof.Machine

def exec (i : Instr) (s : State) : Host.Outcome State Fault Refusal :=
  match i with
  | .rbInit => Sys2Proof.Machine.execRbInit s
  | .rbWrite len => Sys2Proof.Machine.execRbWrite len s
  | .rbRead len => Sys2Proof.Machine.execRbRead len s
  | .rbFlush len => Sys2Proof.Machine.execRbFlush len s
  | .rbSpan => Sys2Proof.Machine.execRbSpan s
  | .rbClear => Sys2Proof.Machine.execRbClear s
  | .rbCap => Sys2Proof.Machine.execRbCap s
  | .rbUsed => Sys2Proof.Machine.execRbUsed s
  | .rbFree => Sys2Proof.Machine.execRbFree s
  | .rbEmpty => Sys2Proof.Machine.execRbEmpty s
  | .rbFull => Sys2Proof.Machine.execRbFull s
  | .fcDrain => Sys2Proof.Machine.execFcDrain s
  | .svProcess => Sys2Proof.Machine.execSvProcess s
  | .osRead => Sys2Proof.Machine.execOsRead s
  | .loopStart => Sys2Proof.Machine.execLoopStart s
  | .loopRun => Sys2Proof.Machine.execLoopRun s

end Sys2Proof.Machine
end

