-- ==== Sys2Proof/Machine/Registers.lean ====
section
/-! DEFINITION. The host register map and the store window (10_state.md R33 to R41, 20_memory.md R62). -/

namespace Sys2Proof.Machine

/-- The host registers by name (R36). -/
inductive HostReg where
  | cmd
  | arg
  | result
  | status
  | capacity
  | head
  | used
  | spanOff
  | spanLen
  | expected
  | bpLo
  | bpHi
  | config
  | watermark
  | diagBytes
  | diagHead
  | diagUsed
  | diagCap
  | diagBpLo
  | diagBpHi
  | winCount
  | diagWinCount
  | faultCmd
  | win (j : Nat)
  | diagWin (j : Nat)
deriving DecidableEq, Repr

/-- The fixed rows of the register map (R36). -/
def regMap : List (Nat × HostReg) :=
  [(0x000, .cmd), (0x004, .arg), (0x008, .result), (0x00C, .status), (0x010, .capacity), (0x014, .head), (0x018, .used),
   (0x01C, .spanOff), (0x020, .spanLen), (0x024, .expected), (0x028, .bpLo), (0x02C, .bpHi), (0x030, .config),
   (0x034, .watermark), (0x038, .diagBytes), (0x03C, .diagHead), (0x040, .diagUsed), (0x044, .diagCap), (0x048, .diagBpLo),
   (0x04C, .diagBpHi), (0x050, .winCount), (0x054, .diagWinCount), (0x058, .faultCmd)]

/-- Whether `off` is `base + 4j` with `j < WIN_LEN` (R36, the two window rows). -/
def inWindow (p : Params) (base off : Nat) : Bool :=
  decide (base ≤ off) && decide ((off - base) % 4 = 0) && decide ((off - base) / 4 < p.winLen)

/-- The register mapped at an offset, if any (R36: "Every other offset is unmapped"). -/
def regAt (p : Params) (off : Nat) : Option HostReg :=
  match regMap.lookup off with
  | some r => some r
  | none =>
    if inWindow p 0x100 off then some (.win ((off - 0x100) / 4))
    else if inWindow p 0x200 off then some (.diagWin ((off - 0x200) / 4))
    else none

/-- The register an access reaches: 32-bit, at a multiple of 4, mapped; else none (R37). -/
def regTarget (p : Params) (size : AccessSize) (off : Nat) : Option HostReg :=
  if decide (size = .b32) && decide (off % 4 = 0) then regAt p off else none

/-- The bits of CONFIG that are not reserved (R33). -/
def configMask : Word := 1

/-- What a host read of a register returns (R36, R33, R41). A read has no side effect (R37). -/
def readReg (s : State) : HostReg → Word
  | .cmd => 0
  | .arg => s.regs.arg
  | .result => s.regs.result
  | .status => s.statusWord
  | .capacity => Params.capWord s.params
  | .head => s.ring.head
  | .used => s.ring.used
  | .spanOff => s.ring.spanOff
  | .spanLen => s.ring.spanLen
  | .expected => s.val.expected.setWidth 32
  | .bpLo => s.val.bytesProcessed.extractLsb' 0 32
  | .bpHi => s.val.bytesProcessed.extractLsb' 32 32
  | .config => s.regs.config &&& configMask
  | .watermark => s.regs.watermark
  | .diagBytes => (0 : BitVec 15) ++ BitVec.ofBool s.diag.valid ++ s.diag.obs ++ s.diag.exp
  | .diagHead => s.diag.head
  | .diagUsed => s.diag.used
  | .diagCap => s.diag.cap
  | .diagBpLo => s.diag.bp.extractLsb' 0 32
  | .diagBpHi => s.diag.bp.extractLsb' 32 32
  | .winCount => s.val.winCount
  | .diagWinCount => s.diag.winCount
  | .faultCmd => s.ctl.faultCmd
  | .win j => (s.val.win.getD j 0).setWidth 32
  | .diagWin j => (s.diag.win.getD j 0).setWidth 32

/-- `min(v, CAP)`: the legal value a write of WATERMARK stores (R34). -/
def legalWatermark (p : Params) (v : Word) : Word := BitVec.ofNat 32 (min v.toNat p.cap)

/-- A host write of a register other than CMD: ARG, CONFIG and WATERMARK take a value, a read-only register does not change
(R33, R34, R37, R39). -/
def writeReg (s : State) (r : HostReg) (v : Word) : State :=
  match r with
  | .arg => { s with regs.arg := v }
  | .config => { s with regs.config := v &&& configMask }
  | .watermark => { s with regs.watermark := legalWatermark s.params v }
  | .cmd => s
  | .result => s
  | .status => s
  | .capacity => s
  | .head => s
  | .used => s
  | .spanOff => s
  | .spanLen => s
  | .expected => s
  | .bpLo => s
  | .bpHi => s
  | .diagBytes => s
  | .diagHead => s
  | .diagUsed => s
  | .diagCap => s
  | .diagBpLo => s
  | .diagBpHi => s
  | .winCount => s
  | .diagWinCount => s
  | .faultCmd => s
  | .win _ => s
  | .diagWin _ => s

/-- What a store-window read returns: an 8-bit read of an index below CAP; else none (R62). -/
def windowRead (s : State) (size : AccessSize) (i : Nat) : Option Byte :=
  if decide (size = .b8) && decide (i < s.params.cap) then some (Memory.byte .store s.ring.store i) else none

end Sys2Proof.Machine
end

