-- ==== Sys2Proof/Machine/Agents.lean ====
section
/-! DEFINITION. What each agent's turn does: a CMD write (10_state.md R38, 60_exceptions.md R235), the other host actions
(R36, R37, R62, R97, R98), the producer's moves (20_memory.md R75, R240), the core's own step, a spurious wake and power-on
reset; and which agent moves next (log 3). -/

namespace Sys2Proof.Machine

/-- A host write of `w` to CMD (R38, R235): checks 1 and 2, then decoding (check 3), then the command, whose meaning makes
checks 4 to 8. -/
def issue (w : Word) (s : State) : Out :=
  match decode w with
  | .ok i => exec i s
  | .error _ => acceptCmd w s (.next (s.raiseFault .illegalCommand w))

/-- The host's read data. -/
def State.deliver (s : State) (v : Word) : State := { s with ext.hostData := v }

/-- The actions the host still has to take. -/
def State.setProg (s : State) (prog : List HostAction) : State := { s with ext.prog := prog }

/-- A host write of a register (R37, R38). -/
def hostWrite (size : AccessSize) (off : Nat) (v : Word) (s : State) : Out :=
  match regTarget s.params size off with
  | none => .refused .hostRegisterAccess
  | some .cmd => issue v s
  | some r => .next (writeReg s r v)

/-- A host read of a register (R37). -/
def hostRead (size : AccessSize) (off : Nat) (s : State) : Out :=
  match regTarget s.params size off with
  | none => .refused .hostRegisterAccess
  | some r => .next (s.deliver (readReg s r))

/-- A host read through the store window (R62). -/
def hostReadWindow (size : AccessSize) (i : Nat) (s : State) : Out :=
  match windowRead s size i with
  | none => .refused .storeWindowAccess
  | some b => .next (s.deliver (b.setWidth 32))

/-- The host stores a byte to its own memory (R60, R63). -/
def hostStoreMem (a : Word) (b : Byte) (s : State) : Out :=
  match memWrite s a.toNat b with
  | .error f => .fault f
  | .ok s' => .next s'

/-- The host loads a byte of its own memory (R60, R63). -/
def hostLoadMem (a : Word) (s : State) : Out :=
  match memRead s a.toNat with
  | .error f => .fault f
  | .ok b => .next (s.deliver (b.setWidth 32))

/-- The largest length a command word holds (R91). -/
def maxLen : Word := BitVec.ofNat 32 (2 ^ Config.lenW - 1)

/-- The host flushes `n` bytes: one CMD write of RB.FLUSH where LEN holds `n`; else one of the largest length now, and the rest
stays pending before `rest` ("must be split by the host into several commands", R91; how it is split is a DESIGN CHOICE, log 11). -/
def hostFlush (n : Word) (rest : List HostAction) (s : State) : Out :=
  if n ≤ maxLen then issue (encode (.rbFlush n)) (s.setProg rest)
  else issue (encode (.rbFlush maxLen)) (s.setProg (.flush (n - maxLen) :: rest))

/-- One poll of `wait.idle` (R97): the host reads STATUS and goes on to `rest` when BUSY is 0. -/
def hostWaitIdle (rest : List HostAction) (s : State) : Out :=
  .next ((s.deliver s.statusWord).setProg (if s.isBusy then .waitIdle :: rest else rest))

/-- The host's turn: the first of its pending actions; nothing where none is pending. -/
def hostMove (s : State) : Out :=
  match s.ext.prog with
  | [] => .next s
  | .writeReg size off v :: rest => hostWrite size off v (s.setProg rest)
  | .readReg size off :: rest => hostRead size off (s.setProg rest)
  | .writeWindow _ _ _ :: _ => .refused .storeWindowAccess
  | .readWindow size i :: rest => hostReadWindow size i (s.setProg rest)
  | .storeMem a b :: rest => hostStoreMem a b (s.setProg rest)
  | .loadMem a :: rest => hostLoadMem a (s.setProg rest)
  | .waitIdle :: rest => hostWaitIdle rest (s.setProg rest)
  | .flush n :: rest => hostFlush n rest s
  | .flushRead :: rest => hostFlush s.ext.hostData rest s

/-- A move of the upstream producer (R75): it never touches STORE, `head` or `used`. -/
def producerMove (m : ProducerMove) (s : State) : Out :=
  match m with
  | .publish ptr len => .next { s with ext.upPtr := ptr, ext.upLen := len }
  | .writeFifo off b =>
    if off < s.params.fifoSize then .next { s with ext.fifo := Memory.write s.ext.fifo off b } else .refused .producerOutsideFifo
  | .notify => .next s.notify

/-- Who moves next: the head of `turns`; where the list is empty the core if it has a step, else the host (log 3). -/
def currentTurn (s : State) : Turn :=
  match s.ext.turns with
  | t :: _ => t
  | [] => if coreReady s then .core else .host

/-- The state with the current turn taken off the list. -/
def popTurn (s : State) : State := { s with ext.turns := s.ext.turns.tail }

/-- One step of the agent whose turn it is. -/
def takeTurn (t : Turn) (s : State) : Out :=
  match t with
  | .core => coreMove s
  | .host => hostMove s
  | .producer m => producerMove m s
  | .spuriousWake => .next s.wakeSpurious
  | .powerOnReset => .next s.powerOnReset

/-- The CMD write of a table word, as the host's next action on the host's turn (R38). -/
def placeCommand (s : State) (w : Word) : State :=
  { s with ext.prog := .writeReg .b32 0x000 w :: s.ext.prog, ext.turns := .host :: s.ext.turns }

end Sys2Proof.Machine
end

