-- ==== Sys2Proof/Machine/Step.lean ====
section
/-! DEFINITION. One step of the machine: the agent whose turn it is moves (00_scope.md R7, R8; 70_reset_and_hazards.md R281). -/

namespace Sys2Proof.Machine

/-- One step. The block fetches nothing (R43, R84): a command runs when the host's turn writes it to CMD. -/
def step : State → Host.Outcome State Fault Refusal := fun s => takeTurn (currentTurn s) (popTurn s)

/-- The state in which the very next step is the host's CMD write of the word `w` (`nbits` bits, those above are 0), from a
state in IDLE; nothing else changes (log 4). -/
def State.withFetchWord (s : State) (nbits w : Nat) : State := placeCommand s (BitVec.ofNat 32 (w % 2 ^ nbits))

end Sys2Proof.Machine
end

