-- ==== Sys2Proof/Machine/Assembler.lean ====
section
/-! DEFINITION. The command notation and the pseudo-instructions of 30_encoding.md R97 and R98: the text of a line, what it
stands for, and the host actions it expands to. It is notation only: no meaning of a command depends on it. -/

namespace Sys2Proof.Machine

/-- The registers `set` names (R97). -/
inductive SetReg where
  | arg
  | config
  | watermark
deriving DecidableEq, Repr

/-- One line of a host program (R97, R98). -/
inductive Line where
  /-- Nothing, or a comment. -/
  | blank
  /-- `set <REG>, <value>`. -/
  | set (r : SetReg) (v : Word)
  /-- A command. -/
  | command (i : Instr)
  /-- `wait.idle`. -/
  | waitIdle
  /-- `read <REG>`. -/
  | read (r : HostReg)
  /-- `rb.iter`. -/
  | iter
  /-- `rb.consume`. -/
  | consume
  /-- `rb.discard <n>`. -/
  | discard (n : Word)
  /-- `rb.readto <addr>, <n>`. -/
  | readTo (addr n : Word)
  /-- `rb.writefrom <addr>, <n>`. -/
  | writeFrom (addr n : Word)
deriving DecidableEq, Repr

/-- The offset of a register (R36). -/
def regOffset : HostReg → Nat
  | .cmd => 0x000
  | .arg => 0x004
  | .result => 0x008
  | .status => 0x00C
  | .capacity => 0x010
  | .head => 0x014
  | .used => 0x018
  | .spanOff => 0x01C
  | .spanLen => 0x020
  | .expected => 0x024
  | .bpLo => 0x028
  | .bpHi => 0x02C
  | .config => 0x030
  | .watermark => 0x034
  | .diagBytes => 0x038
  | .diagHead => 0x03C
  | .diagUsed => 0x040
  | .diagCap => 0x044
  | .diagBpLo => 0x048
  | .diagBpHi => 0x04C
  | .winCount => 0x050
  | .diagWinCount => 0x054
  | .faultCmd => 0x058
  | .win j => 0x100 + 4 * j
  | .diagWin j => 0x200 + 4 * j

/-- The register a `set` writes. -/
def SetReg.target : SetReg → HostReg
  | .arg => .arg
  | .config => .config
  | .watermark => .watermark

/-- The host write of a command word to CMD (R38, R97). -/
def commandAction (i : Instr) : HostAction := .writeReg .b32 (regOffset .cmd) (encode i)

/-- The host write of a register by `set` (R97). -/
def setAction (r : SetReg) (v : Word) : HostAction := .writeReg .b32 (regOffset r.target) v

/-- The host actions a line stands for (R97, R98). -/
def Line.actions : Line → List HostAction
  | .blank => []
  | .set r v => [setAction r v]
  | .command i => [commandAction i]
  | .waitIdle => [.waitIdle]
  | .read r => [.readReg .b32 (regOffset r)]
  | .iter => [commandAction .fcDrain, .waitIdle, commandAction .svProcess, .waitIdle]
  | .consume => [commandAction .rbSpan, .readReg .b32 (regOffset .spanLen), .flushRead]
  | .discard n => [commandAction (.rbFlush n)]
  | .readTo addr n => [setAction .arg addr, commandAction (.rbRead n)]
  | .writeFrom addr n => [setAction .arg addr, commandAction (.rbWrite n)]

/-- A host program: the actions of its lines, one after the other (R97). -/
def assemble (lines : List Line) : List HostAction := lines.flatMap Line.actions

/-- The words of a line: parted at spaces, tabs and commas, up to a comment. `cur` is the word being read, reversed. -/
def tokens : List Char → List Char → List (List Char)
  | cur, [] => if cur.isEmpty then [] else [cur.reverse]
  | cur, c :: cs =>
    if c = ';' then (if cur.isEmpty then [] else [cur.reverse])
    else if c = ' ' ∨ c = ',' ∨ c = '\t' then (if cur.isEmpty then tokens [] cs else cur.reverse :: tokens [] cs)
    else tokens (c :: cur) cs

/-- The value of a digit in a base up to 16. -/
def digitValue (base : Nat) (c : Char) : Option Nat :=
  let v :=
    if '0'.toNat ≤ c.toNat ∧ c.toNat ≤ '9'.toNat then c.toNat - '0'.toNat
    else if 'a'.toNat ≤ c.toNat ∧ c.toNat ≤ 'f'.toNat then c.toNat - 'a'.toNat + 10
    else if 'A'.toNat ≤ c.toNat ∧ c.toNat ≤ 'F'.toNat then c.toNat - 'A'.toNat + 10
    else base
  if v < base then some v else none

/-- The number a row of digits stands for. -/
def digitsValue (base : Nat) : Nat → List Char → Option Nat
  | acc, [] => some acc
  | acc, c :: cs =>
    match digitValue base c with
    | some d => digitsValue base (acc * base + d) cs
    | none => none

/-- A number, decimal or `0x` hexadecimal (R97). -/
def number : List Char → Option Nat
  | [] => none
  | '0' :: 'x' :: c :: cs => digitsValue 16 0 (c :: cs)
  | c :: cs => digitsValue 10 0 (c :: cs)

/-- A 32-bit value. -/
def valueWord (cs : List Char) : Option Word :=
  match number cs with
  | some n => if n < 2 ^ 32 then some (BitVec.ofNat 32 n) else none
  | none => none

/-- A byte count that LEN can hold (R91). -/
def lengthWord (cs : List Char) : Option Word :=
  match valueWord cs with
  | some v => if lenFits v then some v else none
  | none => none

/-- The commands without an operand, in lower case (R93, R97). -/
def plainLines : List (List Char × Line) :=
  [("rb.init".toList, .command .rbInit), ("rb.span".toList, .command .rbSpan), ("rb.clear".toList, .command .rbClear),
   ("rb.cap".toList, .command .rbCap), ("rb.used".toList, .command .rbUsed), ("rb.free".toList, .command .rbFree),
   ("rb.empty".toList, .command .rbEmpty), ("rb.full".toList, .command .rbFull), ("fc.drain".toList, .command .fcDrain),
   ("sv.process".toList, .command .svProcess), ("os.read".toList, .command .osRead),
   ("loop.start".toList, .command .loopStart), ("loop.run".toList, .command .loopRun), ("wait.idle".toList, .waitIdle),
   ("rb.iter".toList, .iter), ("rb.consume".toList, .consume)]

/-- The lines with one byte count (R97, R98). -/
def countLines : List (List Char × (Word → Line)) :=
  [("rb.write".toList, fun n => .command (.rbWrite n)), ("rb.read".toList, fun n => .command (.rbRead n)),
   ("rb.flush".toList, fun n => .command (.rbFlush n)), ("rb.discard".toList, .discard)]

/-- The lines with an address and a byte count (R98). -/
def addressLines : List (List Char × (Word → Word → Line)) :=
  [("rb.readto".toList, .readTo), ("rb.writefrom".toList, .writeFrom)]

/-- The registers `set` names (R97). -/
def setNames : List (List Char × SetReg) :=
  [("ARG".toList, .arg), ("CONFIG".toList, .config), ("WATERMARK".toList, .watermark)]

/-- The names of the register map (R36). -/
def regNames : List (List Char × HostReg) :=
  [("CMD".toList, .cmd), ("ARG".toList, .arg), ("RESULT".toList, .result), ("STATUS".toList, .status),
   ("CAPACITY".toList, .capacity), ("HEAD".toList, .head), ("USED".toList, .used), ("SPAN_OFF".toList, .spanOff),
   ("SPAN_LEN".toList, .spanLen), ("EXPECTED".toList, .expected), ("BP_LO".toList, .bpLo), ("BP_HI".toList, .bpHi),
   ("CONFIG".toList, .config), ("WATERMARK".toList, .watermark), ("DIAG_BYTES".toList, .diagBytes),
   ("DIAG_HEAD".toList, .diagHead), ("DIAG_USED".toList, .diagUsed), ("DIAG_CAP".toList, .diagCap),
   ("DIAG_BP_LO".toList, .diagBpLo), ("DIAG_BP_HI".toList, .diagBpHi), ("WIN_COUNT".toList, .winCount),
   ("DIAG_WIN_COUNT".toList, .diagWinCount), ("FAULT_CMD".toList, .faultCmd)]

/-- The number between `[` and `]` after a window's name. -/
def bracketed (cs : List Char) : Option Nat :=
  match cs.getLast? with
  | some ']' => number cs.dropLast
  | _ => none

/-- The index of a window register: below 64, the largest WIN_LEN (R9, R36). DESIGN CHOICE, log 17: R97 does not say what
`read WIN[64]` is; the model takes it for no line, and one from WIN_LEN to 63 for a read of an offset that is not mapped (R37). -/
def windowIndex (cs : List Char) : Option Nat :=
  match bracketed cs with
  | some j => if j < 64 then some j else none
  | none => none

/-- A register by its name in R36; `WIN[j]` and `DIAG_WIN[j]` by their index, which is below 64 (log 17). -/
def regNamed (cs : List Char) : Option HostReg :=
  match regNames.lookup cs with
  | some r => some r
  | none =>
    if cs.take 4 = "WIN[".toList then (windowIndex (cs.drop 4)).map .win
    else if cs.take 9 = "DIAG_WIN[".toList then (windowIndex (cs.drop 9)).map .diagWin
    else none

/-- The line a text stands for; none where the text is no line of R97 or R98. -/
def parseLine (text : List Char) : Option Line :=
  match tokens [] text with
  | [] => some .blank
  | [op] => plainLines.lookup op
  | [op, x] =>
    if op = "read".toList then (regNamed x).map .read
    else
      match countLines.lookup op, lengthWord x with
      | some mk, some n => some (mk n)
      | _, _ => none
  | [op, x, y] =>
    if op = "set".toList then
      match setNames.lookup x, valueWord y with
      | some r, some v => some (.set r v)
      | _, _ => none
    else
      match addressLines.lookup op, valueWord x, lengthWord y with
      | some mk, some addr, some n => some (mk addr n)
      | _, _, _ => none
  | _ => none

end Sys2Proof.Machine
end

