-- ==== Sys2Proof/Safety.lean ====
section
/-! DEFINITION. The terms claims are stated in: when a command may run, the logical contents of the ring, the machine's
invariant, and runs with the fairness premise of 70_reset_and_hazards.md R277. -/

namespace Sys2Proof.Machine

/-- No command runs and the block has not terminated: checks 1 and 2 of R235 pass. -/
def State.Idle (s : State) : Prop := s.ctl.phase = .idle

/-- A command that needs INIT and mutates passes the common checks (R235): idle, initialised, no span outstanding. -/
def State.Ready (s : State) : Prop := s.ctl.phase = .idle ∧ s.ring.initDone = true ∧ s.ring.spanOut = false

/-- The byte at logical offset `k` of the ring (R13, R127). -/
def State.ringByte (s : State) (k : Nat) : Byte := Memory.byte .store s.ring.store (s.ringIndex k)

/-- The valid data in logical order, oldest byte first (R23, R127). -/
def State.contents (s : State) : List Byte := (List.range s.ring.used.toNat).map s.ringByte

/-- The `n` host bytes from ARG on (R39). -/
def State.sourceBytes (s : State) (n : Nat) : List Byte :=
  (List.range n).map fun k => Memory.byte .host s.ext.hostMem (s.regs.arg.toNat + k)

/-- The first `n` bytes of the run the producer has published (R70). -/
def State.runBytes (s : State) (n : Nat) : List Byte :=
  (List.range n).map fun k => Memory.byte .fifo s.ext.fifo (s.ext.upPtr + k)

/-- The producer's overflow flag byte (R74). -/
def State.flagByte (s : State) : Byte := Memory.byte .fifo s.ext.fifo s.params.ovfOffset

/-- How many leading bytes match the incrementing sequence that starts at `e` (R171). -/
def matchLen : Byte → List Byte → Nat
  | _, [] => 0
  | e, b :: bs => if b = e then matchLen (e + 1) bs + 1 else 0

/-- How many bytes a process step examines: up to and with the first mismatch, else all (R172, R174). -/
def examinedLen (e : Byte) (bs : List Byte) : Nat := if matchLen e bs < bs.length then matchLen e bs + 1 else bs.length

/-- `PHASE` is one of LOOP.RUN's (R32). -/
def Phase.looping : Phase → Bool
  | .idle => false
  | .drainWait => false
  | .drainCheck => false
  | .runDrain => true
  | .runWait => true
  | .runProcess => true
  | .terminated => false

/-- A window is well formed: WIN_LEN entries, at most that many valid, and 0 in every entry that is not (R27). -/
def windowOk (winLen : Nat) (win : List Byte) (count : Word) : Prop :=
  win.length = winLen ∧ count.toNat ≤ winLen ∧ ∀ j, j < winLen → count.toNat ≤ j → win.getD j 0 = 0

/-- The machine's invariant. It holds at reset and every step keeps it; the ring part is R23. -/
structure State.Inv (s : State) : Prop where
  /-- The parameters are in the ranges of R9. -/
  params_ok : s.params.ok = true
  /-- `used <= CAP` (R23). -/
  used_le_cap : s.ring.used.toNat ≤ s.params.cap
  /-- `head < CAP` whenever `CAP > 0` (R23). -/
  head_lt_cap : 0 < s.params.cap → s.ring.head.toNat < s.params.cap
  /-- `head = 0` for `CAP = 0` (R21). -/
  head_zero : s.params.cap = 0 → s.ring.head = 0
  /-- STORE is in canonical form. -/
  store_wf : Memory.wf s.ring.store = true
  /-- STORE has no index `>= CAP` (R20). -/
  store_below : Memory.below s.params.cap s.ring.store = true
  /-- Every byte at a valid index has been written (R23). -/
  valid_written : ∀ k, k < s.ring.used.toNat → (Memory.find s.ring.store (s.ringIndex k)).isSome = true
  /-- Host memory is in canonical form, below `2^HOST_AW`. -/
  host_wf : Memory.wf s.ext.hostMem = true ∧ Memory.below (2 ^ Config.hostAw) s.ext.hostMem = true
  /-- The FIFO region is in canonical form, below FIFO_SIZE. -/
  fifo_wf : Memory.wf s.ext.fifo = true ∧ Memory.below s.params.fifoSize s.ext.fifo = true
  /-- An outstanding span is still the span of the current state (R25, R270). -/
  span_current : s.ring.spanOut = true → s.ring.spanOff = s.ring.head ∧ s.ring.spanLen.toNat = s.spanLength
  /-- Before RB.INIT the ring is empty, no span is out and no command runs (R24). -/
  before_init : s.ring.initDone = false → s.ring.head = 0 ∧ s.ring.used = 0 ∧ s.ring.spanOut = false ∧ s.isBusy = false
  /-- RB.INIT completed only with a store, or with `CAP = 0` (R111). -/
  init_store : s.ring.initDone = true → s.params.cap = 0 ∨ s.params.storePresent = true
  /-- No span is out while a command runs (R235). -/
  busy_no_span : s.isBusy = true → s.ring.spanOut = false
  /-- The loop runs only after its marker (R201, R202). -/
  loop_started : s.ctl.phase.looping = true → s.ctl.started = true
  /-- A drain waits, or has just left its wait, only with an empty buffer and no overflow seen (R152). -/
  wait_empty : s.isWaiting = true ∨ s.ctl.phase = .drainCheck → s.ring.used = 0 ∧ s.ctl.ovfSeen = false
  /-- The validator's window (R27). -/
  window_ok : windowOk s.params.winLen s.val.win s.val.winCount
  /-- The captured window (R29). -/
  diag_window_ok : windowOk s.params.winLen s.diag.win s.diag.winCount
  /-- Without a capture the DIAG registers hold their reset values (R29). -/
  diag_reset : s.diag.valid = false → s.diag = Diag.powerOn s.params
  /-- A reported mismatch has been captured (R170, R173). -/
  mismatch_captured : s.ctl.mismatch = true → s.diag.valid = true
  /-- OUTCOME is the one of the cause (R222). -/
  outcome_of_cause : s.ctl.outcome = s.ctl.cause.outcome
  /-- Terminated exactly with a cause (R222). -/
  cause_iff_terminated : s.ctl.cause ≠ .none ↔ s.ctl.phase = .terminated
  /-- FAULT_CMD is written by termination only (R35). -/
  fault_cmd_zero : s.ctl.phase ≠ .terminated → s.ctl.faultCmd = 0
  /-- BufferOverflow means the flag was seen and the buffer is empty (R154). -/
  overflow_cause : s.ctl.cause = .bufferOverflow → s.ctl.ovfSeen = true ∧ s.ring.used = 0
  /-- ValidationMismatch means the last process step mismatched (R177). -/
  mismatch_cause : s.ctl.cause = .validationMismatch → s.ctl.mismatch = true
  /-- Reserved CONFIG bits are 0 (R33). -/
  config_reserved : s.regs.config.toNat < 2 ∧ s.ctl.loopConfig.toNat < 2
  /-- `WATERMARK <= CAP` (R34). -/
  watermark_legal : s.regs.watermark.toNat ≤ s.params.cap ∧ s.ctl.loopWatermark.toNat ≤ s.params.cap

/-- The command faults with a cause: the next state is the termination of R230 from the state it found, with its word. -/
def Traps (i : Instr) (s : State) (c : Cause) : Prop := exec i s = .next (s.raiseFault c (encode i))

/-- The throughput records due while `k` bytes are examined from counter value `bp` on (R175, R212). -/
def throughputs (bp : Count) (k : Nat) : List Record :=
  (List.range k).filterMap fun j =>
    if (bp + BitVec.ofNat 64 (j + 1)).toNat % Config.throughputPeriod = 0 then
      some (.throughput (bp + BitVec.ofNat 64 (j + 1)))
    else none

/-- The window and counters of the validator after examining the bytes `bs`, with `e` expected next (R27, R171, R172, R175). -/
def State.examinedVal (s : State) (bs : List Byte) (e : Byte) : Validator :=
  { expected := e
    win := bs.foldl (pushWindow s.params.winLen) s.val.win
    winCount := BitVec.ofNat 32 (min (s.val.winCount.toNat + bs.length) s.params.winLen)
    bytesProcessed := s.val.bytesProcessed + BitVec.ofNat 64 bs.length }

/-- The ring after flushing `k` bytes (R115, R174). -/
def State.flushedRing (s : State) (k : Nat) : Ring :=
  { s.ring with head := BitVec.ofNat 32 (s.ringIndex k), used := BitVec.ofNat 32 (s.ring.used.toNat - k) }

/-- What a process step that meets no mismatch leaves, before its result and PHASE: all bytes examined and flushed, MISMATCH 0,
the throughput records due (R170, R171, R175, R176; their period is log 12's). -/
def State.examinedAll (s : State) : State :=
  { s with
    ring := s.flushedRing s.ring.used.toNat
    val := s.examinedVal s.contents (s.val.expected + BitVec.ofNat 8 s.ring.used.toNat)
    ctl.mismatch := false
    ext.log := s.ext.log ++ throughputs s.val.bytesProcessed s.ring.used.toNat }

/-- What a process step whose first mismatch is byte `b` at logical offset `m` leaves, before its result, PHASE or termination:
`m + 1` bytes examined and flushed, the context captured with `head` and `used` of the span the byte is in, the expected byte
resynchronised, MISMATCH 1, the throughput records due (period of log 12), then the Mismatch record (R170 to R176, R237). -/
def State.examinedTo (s : State) (m : Nat) (b : Byte) : State :=
  let inFirst := s.ring.head.toNat + m < s.params.cap
  let v := s.examinedVal (s.contents.take (m + 1)) (b + 1)
  let e := s.val.expected + BitVec.ofNat 8 m
  let dHead : Word := if inFirst then s.ring.head else 0
  let dUsed : Word := if inFirst then s.ring.used else BitVec.ofNat 32 (s.ring.used.toNat - (s.params.cap - s.ring.head.toNat))
  let cap : Word := Params.capWord s.params
  { s with
    ring := s.flushedRing (m + 1)
    val := v
    diag := { valid := true, exp := e, obs := b, head := dHead, used := dUsed, cap := cap, bp := v.bytesProcessed, win := v.win,
              winCount := v.winCount }
    ctl.mismatch := true
    ext.log := s.ext.log ++ throughputs s.val.bytesProcessed (m + 1) ++
      [.mismatch e b dHead dUsed cap v.bytesProcessed v.win] }

/-- The state with OVF_SEEN latched and the overflow edge logged, for the current flag byte, after one question to the upstream
port (R152, R155). -/
def State.overflowChecked (s : State) : State :=
  if s.flagByte ≠ 0 ∧ s.ctl.ovfSeen = false then
    { s with
      ctl.ovfSeen := true
      ext.upLog := s.ext.upLog ++ [.getContiguous]
      ext.log := s.ext.log ++ [.overflowDetected s.ring.head s.ring.used (Params.capWord s.params)] }
  else { s with ext.upLog := s.ext.upLog ++ [.getContiguous] }

/-- A run: each state steps to the next one. -/
def IsRun (r : Nat → State) : Prop := ∀ n, step (r n) = .next (r (n + 1))

/-- `PRODUCER_PROGRESS` (R277): from any point on, a time comes at which, if the core is waiting, the producer has delivered data
or set the flag and has raised a notification. -/
def ProducerProgress (r : Nat → State) : Prop :=
  ∀ n, ∃ m, n ≤ m ∧ ((r m).isWaiting = true → (0 < (r m).ext.upLen ∨ (r m).flagByte ≠ 0) ∧ (r m).ctl.notifyPend = true)

end Sys2Proof.Machine
end

