-- ==== Sys2Proof/Certificates/Slice0/Obligations.lean ====
section
/-! DEFINITION. The statements for the provers. -/

open Sys2Proof Sys2Proof.Machine

/-! ### Encoding and fetch -/

/-- Every well-formed command is read back from its word, with every length the LEN field admits (R90, R91, R93, R96). -/
def Obligations.DecodeOfEncode : Prop := ∀ i : Instr, i.wf = true → decode (encode i) = .ok i

/-- A word that decodes is the word of what it decodes to: no two words stand for one command (R95, R96). -/
def Obligations.EncodeOfDecode : Prop := ∀ (w : Word) (i : Instr), decode w = .ok i → i.wf = true ∧ encode i = w

/-- R94: a word is illegal exactly when its OPC is not assigned or it is format Z with LEN not 0, and issuing it to an idle block
faults with ILLEGAL_COMMAND. -/
def Obligations.IllegalWordsFault : Prop :=
  ∀ (w : Word) (s : State),
    ((∃ e, decode w = .error e) ↔
      opcField w ∉ [(0x01 : BitVec 8), 0x02, 0x03, 0x04, 0x05, 0x06, 0x08, 0x09, 0x0A, 0x0B, 0x0C, 0x10, 0x18, 0x20, 0x30, 0x31] ∨
      (opcField w ∉ [(0x02 : BitVec 8), 0x03, 0x04] ∧ lenField w ≠ 0)) ∧
    ((∃ e, decode w = .error e) → s.Idle → issue w s = .next (s.raiseFault .illegalCommand w))

/-- The encoded examples of R99: each source line stands for its command, whose word it is, and the word decodes to it;
the two illegal words of R99 are refused. -/
def Obligations.EncodedExamplesDecode : Prop :=
  (∀ e ∈ ([("rb.init", 0x01000000, .rbInit),
      ("rb.write 5", 0x02000005, .rbWrite 5),
      ("rb.write 6", 0x02000006, .rbWrite 6),
      ("rb.read 3", 0x03000003, .rbRead 3),
      ("rb.flush 0", 0x04000000, .rbFlush 0),
      ("rb.flush 5", 0x04000005, .rbFlush 5),
      ("rb.span", 0x05000000, .rbSpan),
      ("rb.clear", 0x06000000, .rbClear),
      ("rb.cap", 0x08000000, .rbCap),
      ("rb.used", 0x09000000, .rbUsed),
      ("rb.free", 0x0A000000, .rbFree),
      ("rb.empty", 0x0B000000, .rbEmpty),
      ("rb.full", 0x0C000000, .rbFull),
      ("fc.drain", 0x10000000, .fcDrain),
      ("sv.process", 0x18000000, .svProcess),
      ("os.read", 0x20000000, .osRead),
      ("loop.start", 0x30000000, .loopStart),
      ("loop.run", 0x31000000, .loopRun),
      ("rb.write 16777215", 0x02FFFFFF, .rbWrite 16777215)] : List (String × Word × Instr)),
    parseLine e.1.toList = some (.command e.2.2) ∧ encode e.2.2 = e.2.1 ∧ decode e.2.1 = .ok e.2.2) ∧
  decode 0x05000001 = .error (.nonzeroLength 0x05 0x000001) ∧ decode 0x07000000 = .error (.unassignedOpcode 0x07)

/-- A step in which the host writes a word to CMD runs the decoded command on the state without that turn and that action
(R38). -/
def Obligations.StepRunsCommandWritten : Prop :=
  ∀ (s : State) (w : Word) (i : Instr) (rest : List HostAction),
    s.ext.prog = .writeReg .b32 0x000 w :: rest → currentTurn s = .host → decode w = .ok i →
    step s = exec i { s with ext.prog := rest, ext.turns := s.ext.turns.tail }

/-- The word placed by `withFetchWord` is the command the very next step runs, on exactly the state it was placed in (log 4). -/
def Obligations.PlacedWordRunsNext : Prop :=
  ∀ (s : State) (nbits w : Nat) (i : Instr), decodeTableWord nbits w = some i → step (s.withFetchWord nbits w) = exec i s

/-! ### Reset, parameters and the invariant -/

/-- R45, R260, R264: a power-on reset turn gives, in any PHASE, every register its reset value and leaves STORE and everything
outside the block. -/
def Obligations.PowerOnResetRegisters : Prop :=
  ∀ s : State, currentTurn s = .powerOnReset → ∃ t, step s = .next t ∧
    t.params = s.params ∧ t.ring.store = s.ring.store ∧ t.ring.head = 0 ∧ t.ring.used = 0 ∧ t.ring.initDone = false ∧
    t.ring.spanOut = false ∧ t.ring.spanOff = 0 ∧ t.ring.spanLen = 0 ∧ t.val.expected = 0 ∧
    t.val.win = List.replicate s.params.winLen 0 ∧ t.val.winCount = 0 ∧ t.val.bytesProcessed = 0 ∧
    t.diag = ⟨false, 0, 0, 0, 0, 0, 0, List.replicate s.params.winLen 0, 0⟩ ∧ t.ctl.ovfSeen = false ∧
    t.ctl.notifyPend = false ∧ t.ctl.phase = .idle ∧ t.regs.config = (if s.params.mismatchFatalReset then 1 else 0) ∧
    t.regs.watermark = BitVec.ofNat 32 s.params.cap ∧ t.ctl.started = false ∧ t.isTerminated = false ∧ t.ctl.mismatch = false ∧
    t.ctl.outcome.code = 0 ∧ t.ctl.cause.code = 0 ∧ t.ctl.faultCmd = 0 ∧ t.regs.arg = 0 ∧ t.regs.result = 0 ∧
    t.statusWord = (if s.params.cap = 0 then 0x00000018 else 0x00000008) ∧
    t.ext = { s.ext with turns := s.ext.turns.tail }

/-- After the first power-up no byte of STORE is fixed: each reads as the free value, whatever the parameters (R45, R262, log 2). -/
def Obligations.PowerUpStoreIsFree : Prop :=
  ∀ (p : Params) (i : Nat), i < p.cap → storeRead (State.powerOn p) i = .ok (Config.unwrittenByte .store i)

/-- The invariant holds after power-up for all admitted parameters, and at `State.reset`. -/
def Obligations.ResetHasInvariant : Prop := (∀ p : Params, p.ok = true → (State.powerOn p).Inv) ∧ State.reset.Inv

/-- Every step keeps the invariant, from every state that has it (R23 and the other invariants of the state). -/
def Obligations.StepKeepsInvariant : Prop := ∀ s t : State, s.Inv → step s = .next t → t.Inv

/-- R61: no step from a state of the invariant accesses a space outside its bounds. -/
def Obligations.NoAccessOutsideSpaces : Prop := ∀ (s : State) (f : Fault), s.Inv → step s ≠ .fault f

/-- No command is refused, in any state. -/
def Obligations.NoCommandRefused : Prop := ∀ (i : Instr) (s : State) (r : Refusal), exec i s ≠ .refused r

/-- No step changes a parameter: the capacity is fixed at construction (R9, R20). -/
def Obligations.StepKeepsParameters : Prop := ∀ s t : State, step s = .next t → t.params = s.params

/-! ### Termination and the common checks -/

/-- R230: termination writes the termination registers and one Fatal record, and nothing else; a fault is a termination with
GenericProcessingFailure. -/
def Obligations.TerminationWritesOnly : Prop :=
  ∀ (s : State) (o : EndOutcome) (c : Cause) (w : Word),
    s.terminate o c w =
      { s with
        ctl.outcome := o
        ctl.cause := c
        ctl.faultCmd := w
        ctl.phase := .terminated
        ext.log := s.ext.log ++
          [.fatal o c w s.ring.head s.ring.used (BitVec.ofNat 32 s.params.cap) s.val.expected s.val.bytesProcessed s.val.win] } ∧
    (s.terminate o c w).isTerminated = true ∧ s.raiseFault c w = s.terminate .genericProcessingFailure c w

/-- R235: the checks of a CMD write, in order; the first that applies decides. -/
def Obligations.CommandChecksInOrder : Prop :=
  ∀ (w : Word) (s : State),
    if s.ctl.phase = .terminated then issue w s = .next s
    else if s.isBusy = true then issue w s = .next (s.raiseFault .cmdWhileBusy w)
    else match decode w with
      | .error _ => issue w s = .next (s.raiseFault .illegalCommand w)
      | .ok i =>
        if needsInit i = true ∧ s.ring.initDone = false then issue w s = .next (s.raiseFault .notInitialized w)
        else if i = .rbInit ∧ s.ring.initDone = true then issue w s = .next (s.raiseFault .reinit w)
        else if mutates i = true ∧ isFlush i = false ∧ s.ring.spanOut = true then
          issue w s = .next (s.raiseFault .spanHazard w)
        else if i = .loopStart ∧ s.ctl.started = true then issue w s = .next (s.raiseFault .restart w)
        else issue w s = exec i s ∧ violated i s = none

/-- Before RB.INIT every command but RB.INIT, RB.CAP, OS.READ and LOOP.START faults with NOT_INITIALIZED, and those four do not
(R24). -/
def Obligations.CommandsNeedInit : Prop :=
  ∀ (i : Instr) (s : State), s.Idle → s.ring.initDone = false →
    (i ∉ [.rbInit, .rbCap, .osRead, .loopStart] → Traps i s .notInitialized) ∧
    (i ∈ [.rbInit, .rbCap, .osRead, .loopStart] → ¬ Traps i s .notInitialized)

/-- R270: what each command does while a span is outstanding. -/
def Obligations.SpanDiscipline : Prop :=
  ∀ (s : State) (len : Word), s.Idle → s.ring.initDone = true → s.ring.spanOut = true →
    Traps (.rbWrite len) s .spanHazard ∧ Traps (.rbRead len) s .spanHazard ∧ Traps .rbClear s .spanHazard ∧
    Traps .fcDrain s .spanHazard ∧ Traps .svProcess s .spanHazard ∧ Traps .loopRun s .spanHazard ∧
    (s.ring.spanLen.toNat < len.toNat → Traps (.rbFlush len) s .flushExceedsSpan) ∧
    (len.toNat ≤ s.ring.spanLen.toNat → ∃ t, exec (.rbFlush len) s = .next t ∧ t.ctl = s.ctl ∧ t.ring.spanOut = false) ∧
    (∀ i ∈ [Instr.rbSpan, .rbCap, .rbUsed, .rbFree, .rbEmpty, .rbFull], ∃ t, exec i s = .next t ∧ t.ctl = s.ctl) ∧
    (s.params.ovfOffset < s.params.fifoSize → ∃ t, exec .osRead s = .next t ∧ t.ctl = s.ctl) ∧
    (s.ctl.started = false → ∃ t, exec .loopStart s = .next t ∧ t.ctl = { s.ctl with started := true })

/-- R233: only power-on reset leaves the terminated state; every other step keeps the first termination's registers, the block's
state and the LOG. -/
def Obligations.TerminatedIsAbsorbing : Prop :=
  ∀ s : State, s.ctl.phase = .terminated →
    (currentTurn s = .powerOnReset → ∃ t, step s = .next t ∧ t.ctl.phase = .idle) ∧
    (∀ t, currentTurn s ≠ .powerOnReset → step s = .next t →
      t.ctl = { s.ctl with notifyPend := t.ctl.notifyPend } ∧ t.ring = s.ring ∧ t.val = s.val ∧ t.diag = s.diag ∧
      t.regs.result = s.regs.result ∧ t.ext.log = s.ext.log)

/-- A command that ends in a GenericProcessingFailure leaves the block as it found it, but for the termination registers and the
Fatal record; outside the block only the upstream port may have been asked (R231). -/
def Obligations.FaultsArePrecise : Prop :=
  ∀ (i : Instr) (s t : State), s.Idle → exec i s = .next t → t.ctl.phase = .terminated →
    t.ctl.outcome = .genericProcessingFailure →
    t.ctl.faultCmd = encode i ∧ t.ring = s.ring ∧ t.val = s.val ∧ t.diag = s.diag ∧ t.regs = s.regs ∧
    t.ctl = { s.ctl with outcome := t.ctl.outcome, cause := t.ctl.cause, faultCmd := t.ctl.faultCmd, phase := .terminated } ∧
    t.ext = { s.ext with log := s.ext.log ++ [s.fatalRecord .genericProcessingFailure t.ctl.cause (encode i)],
                         upLog := t.ext.upLog } ∧
    (t.ext.upLog = s.ext.upLog ∨ (i = .fcDrain ∧ t.ext.upLog = s.ext.upLog ++ [.getContiguous]))

/-- R213: a step that terminates the block ends the LOG with the Fatal record of the state it leaves, and a fatal mismatch puts its
Mismatch record just before it. -/
def Obligations.EveryTerminationIsLogged : Prop :=
  ∀ s t : State, s.ctl.phase ≠ .terminated → step s = .next t → t.ctl.phase = .terminated →
    ∃ before, t.ext.log = before ++
        [.fatal t.ctl.outcome t.ctl.cause t.ctl.faultCmd t.ring.head t.ring.used (BitVec.ofNat 32 t.params.cap) t.val.expected
          t.val.bytesProcessed t.val.win] ∧
      (t.ctl.outcome = .validationMismatch → ∃ before', before = before' ++
        [.mismatch t.diag.exp t.diag.obs t.diag.head t.diag.used t.diag.cap t.diag.bp t.diag.win])

/-! ### RingBuffer commands -/

/-- RB.INIT on an idle block (R111). -/
def Obligations.RbInitCompletes : Prop :=
  ∀ s : State, s.Idle →
    (s.ring.initDone = true → Traps .rbInit s .reinit) ∧
    (s.ring.initDone = false → s.ring.spanOut = false → 0 < s.params.cap → s.params.storePresent = false →
      Traps .rbInit s .initNoStore) ∧
    (s.ring.initDone = false → s.ring.spanOut = false → (s.params.cap = 0 ∨ s.params.storePresent = true) →
      ∃ t, exec .rbInit s = .next t ∧
        t = { s with ring := ⟨s.ring.store, 0, 0, true, false, 0, 0⟩, regs.result := 0 } ∧
        t.isEmpty = true ∧ t.isFull = decide (s.params.cap = 0))

/-- RB.WRITE (R112, R114): exactly `min(len, CAP - used)` bytes go from host memory at ARG to the end of the ring, at the indices
`(head + used + k) mod CAP`; everything else is unchanged; a range that passes the top faults. -/
def Obligations.RbWriteStoresAcceptedBytes : Prop :=
  ∀ (s : State) (len : Word), s.Inv → s.Ready →
    let n := min len.toNat (s.params.cap - s.ring.used.toNat)
    (n ≠ 0 ∧ 2 ^ 32 < s.regs.arg.toNat + n → Traps (.rbWrite len) s .hostAddrWrap) ∧
    (n = 0 ∨ s.regs.arg.toNat + n ≤ 2 ^ 32 →
      ∃ t, exec (.rbWrite len) s = .next t ∧ t.contents = s.contents ++ s.sourceBytes n ∧
        (∀ k, k < n → Memory.find t.ring.store (s.ringIndex (s.ring.used.toNat + k)) =
          some (Memory.byte .host s.ext.hostMem (s.regs.arg.toNat + k))) ∧
        (∀ i, (∀ k, k < n → s.ringIndex (s.ring.used.toNat + k) ≠ i) →
          Memory.find t.ring.store i = Memory.find s.ring.store i) ∧
        t.ring = { s.ring with store := t.ring.store, used := BitVec.ofNat 32 (s.ring.used.toNat + n) } ∧
        t.regs = { s.regs with result := BitVec.ofNat 32 n } ∧ t.params = s.params ∧ t.val = s.val ∧ t.diag = s.diag ∧
        t.ctl = s.ctl ∧ t.ext = s.ext)

/-- RB.READ (R112, R116): exactly `min(len, used)` bytes, oldest first, go to host memory from ARG on; everything else is
unchanged; a range that passes the top faults. -/
def Obligations.RbReadDeliversOldestBytes : Prop :=
  ∀ (s : State) (len : Word), s.Inv → s.Ready →
    let n := min len.toNat s.ring.used.toNat
    (n ≠ 0 ∧ 2 ^ 32 < s.regs.arg.toNat + n → Traps (.rbRead len) s .hostAddrWrap) ∧
    (n = 0 ∨ s.regs.arg.toNat + n ≤ 2 ^ 32 →
      ∃ t, exec (.rbRead len) s = .next t ∧ t.contents = s.contents.drop n ∧
        (∀ k, k < n → Memory.find t.ext.hostMem (s.regs.arg.toNat + k) = s.contents[k]?) ∧
        (∀ a, (∀ k, k < n → s.regs.arg.toNat + k ≠ a) → Memory.find t.ext.hostMem a = Memory.find s.ext.hostMem a) ∧
        t.ring = { s.ring with head := BitVec.ofNat 32 (s.ringIndex n), used := BitVec.ofNat 32 (s.ring.used.toNat - n) } ∧
        t.regs = { s.regs with result := BitVec.ofNat 32 n } ∧ t.params = s.params ∧ t.val = s.val ∧ t.diag = s.diag ∧
        t.ctl = s.ctl ∧ t.ext = { s.ext with hostMem := t.ext.hostMem })

/-- RB.FLUSH (R117): without a span, or with one of at least `len` bytes, exactly `min(len, used)` bytes are discarded, the span is
released and nothing else changes; a longer flush of an outstanding span faults. -/
def Obligations.RbFlushDiscards : Prop :=
  ∀ (s : State) (len : Word), s.Inv → s.Idle → s.ring.initDone = true →
    let n := min len.toNat s.ring.used.toNat
    (s.ring.spanOut = true → s.ring.spanLen.toNat < len.toNat → Traps (.rbFlush len) s .flushExceedsSpan) ∧
    ((s.ring.spanOut = false ∨ len.toNat ≤ s.ring.spanLen.toNat) →
      ∃ t, exec (.rbFlush len) s = .next t ∧ t.contents = s.contents.drop n ∧
        (s.ring.spanOut = true → n = len.toNat) ∧
        t.ring = { s.ring with head := BitVec.ofNat 32 (s.ringIndex n), used := BitVec.ofNat 32 (s.ring.used.toNat - n),
                               spanOut := false } ∧
        t.regs = { s.regs with result := BitVec.ofNat 32 n } ∧ t.params = s.params ∧ t.val = s.val ∧ t.diag = s.diag ∧
        t.ctl = s.ctl ∧ t.ext = s.ext)

/-- RB.SPAN (R119, R120): the first linear run from `head`, which never crosses the end of the store, is handed out, and nothing
else changes; with nothing changed in between a second RB.SPAN gives the same span. -/
def Obligations.RbSpanHandsOutLinearRun : Prop :=
  ∀ s : State, s.Inv → s.Idle → s.ring.initDone = true →
    let n := min s.ring.used.toNat (s.params.cap - s.ring.head.toNat)
    s.ring.head.toNat + n ≤ s.params.cap ∧ (∀ k, k < n → s.ringIndex k = s.ring.head.toNat + k) ∧
    ∃ t, exec .rbSpan s = .next t ∧
      t = { s with ring.spanOut := true, ring.spanOff := s.ring.head, ring.spanLen := BitVec.ofNat 32 n,
                   regs.result := BitVec.ofNat 32 n } ∧
      exec .rbSpan t = .next t

/-- RB.CLEAR (R118): `head` and `used` become 0, STORE and everything else are unchanged. -/
def Obligations.RbClearZeroesRing : Prop :=
  ∀ s : State, s.Ready → ∃ t, exec .rbClear s = .next t ∧
    t = { s with ring.head := 0, ring.used := 0, regs.result := 0 } ∧ t.isEmpty = true ∧ t.isFull = decide (s.params.cap = 0)

/-- RB.CAP, RB.USED, RB.FREE, RB.EMPTY and RB.FULL write RESULT and nothing else; RB.CAP is allowed before RB.INIT, the others fault
then (R121 to R125). -/
def Obligations.IntrospectionCommandsAnswer : Prop :=
  ∀ s : State, s.Idle →
    exec .rbCap s = .next { s with regs.result := BitVec.ofNat 32 s.params.cap } ∧
    (s.ring.initDone = false → Traps .rbUsed s .notInitialized ∧ Traps .rbFree s .notInitialized ∧
      Traps .rbEmpty s .notInitialized ∧ Traps .rbFull s .notInitialized) ∧
    (s.ring.initDone = true →
      exec .rbUsed s = .next { s with regs.result := s.ring.used } ∧
      exec .rbFree s = .next { s with regs.result := BitVec.ofNat 32 (s.params.cap - s.ring.used.toNat) } ∧
      exec .rbEmpty s = .next { s with regs.result := if s.ring.used.toNat = 0 then 1 else 0 } ∧
      exec .rbFull s = .next { s with regs.result := if s.ring.used.toNat = s.params.cap then 1 else 0 })

/-- R110: a RingBuffer command on an idle block either faults or completes in its one step, and then touches no validator state, no
OVF_SEEN, no NOTIFY_PEND, no loop bookkeeping, nothing upstream and no record. -/
def Obligations.RingCommandsStayInTheRing : Prop :=
  ∀ (i : Instr) (s : State) (len : Word), s.Inv → s.Idle →
    i ∈ [.rbInit, .rbWrite len, .rbRead len, .rbFlush len, .rbSpan, .rbClear, .rbCap, .rbUsed, .rbFree, .rbEmpty, .rbFull] →
    (∃ c, Traps i s c) ∨
    ∃ t, exec i s = .next t ∧ t.params = s.params ∧ t.val = s.val ∧ t.diag = s.diag ∧ t.ctl = s.ctl ∧
      t.regs = { s.regs with result := t.regs.result } ∧ t.ext = { s.ext with hostMem := t.ext.hostMem }

/-- Bytes written to an empty ring and read back arrive in order: a write of `n` bytes at ARG, then a read of `n` bytes to `dst`
(R126 (e)). -/
def Obligations.WriteThenReadReturnsBytes : Prop :=
  ∀ (s : State) (n dst : Word), s.Inv → s.Ready → s.ring.used = 0 → n.toNat ≤ s.params.cap →
    s.regs.arg.toNat + n.toNat ≤ 2 ^ 32 → dst.toNat + n.toNat ≤ 2 ^ 32 →
    ∃ t u, exec (.rbWrite n) s = .next t ∧ exec (.rbRead n) (writeReg t .arg dst) = .next u ∧
      t.regs.result = n ∧ u.regs.result = n ∧ u.ring.used = 0 ∧
      ∀ k, k < n.toNat → Memory.find u.ext.hostMem (dst.toNat + k) =
        some (Memory.byte .host s.ext.hostMem (s.regs.arg.toNat + k))

/-- The ring is first-in first-out: every step appends bytes that fit, or takes bytes off the front (R126, R127). -/
def Obligations.RingIsFirstInFirstOut : Prop :=
  ∀ s t : State, s.Inv → step s = .next t →
    (∃ new : List Byte, new.length ≤ s.params.cap - s.ring.used.toNat ∧ t.contents = s.contents ++ new) ∨
    (∃ n, n ≤ s.ring.used.toNat ∧ t.contents = s.contents.drop n)

/-- With CAP = 0 no step touches STORE or moves a byte, and the buffer reads both EMPTY and FULL (R273). -/
def Obligations.ZeroCapacityNeverIndexes : Prop :=
  ∀ s t : State, s.Inv → s.params.cap = 0 → step s = .next t →
    t.ring.store = s.ring.store ∧ t.ring.head = 0 ∧ t.ring.used = 0 ∧ t.isEmpty = true ∧ t.isFull = true ∧
    t.val.bytesProcessed = (if currentTurn s = .powerOnReset then 0 else s.val.bytesProcessed)

/-! ### FlowController and sentinel -/

/-- R151: above the watermark a drain step, host-issued or LOOP.RUN's, admits nothing, asks nothing upstream and succeeds with 0;
with WATERMARK at CAP it never fires, and when it fires the buffer is not empty. That the loop's WATERMARK is that of its issue is
log 6 (R81(a)). -/
def Obligations.WatermarkArbiter : Prop :=
  ∀ s : State, s.Inv →
    (s.Ready → s.regs.watermark.toNat < s.ring.used.toNat → exec .fcDrain s = .next { s with regs.result := 0 }) ∧
    (s.ctl.phase = .runDrain → s.ctl.loopWatermark.toNat < s.ring.used.toNat →
      coreMove s = .next { s with ctl.phase := .runProcess }) ∧
    (s.regs.watermark.toNat < s.ring.used.toNat → s.regs.watermark.toNat < s.params.cap ∧ s.ring.used.toNat ≠ 0) ∧
    (s.regs.watermark.toNat = s.params.cap → ¬ s.regs.watermark.toNat < s.ring.used.toNat)

/-- A drain step with a run of the producer that keeps the contract admits the first `min(len, CAP - used)` bytes of the run in
order, releases exactly those once, and reads no flag: host-issued, resumed after a wake, and in LOOP.RUN, where RESULT is not
written (R152, R153, R157, R203). The model's inferences: what the producer answers next is log 7, the PHASE of the check after a
wake log 5, and that the loop's WATERMARK is that of its issue log 6 (R81(a)). -/
def Obligations.DrainAdmitsRun : Prop :=
  ∀ s : State, s.Inv → 0 < s.ext.upLen → s.ext.upPtr + s.ext.upLen ≤ s.params.fifoSize →
    ¬ (s.ext.upPtr ≤ s.params.ovfOffset ∧ s.params.ovfOffset < s.ext.upPtr + s.ext.upLen) →
    let n := min s.ext.upLen (s.params.cap - s.ring.used.toNat)
    let admitted := fun t : State =>
      t.contents = s.contents ++ s.runBytes n ∧
      (∀ i, (∀ k, k < n → s.ringIndex (s.ring.used.toNat + k) ≠ i) → Memory.find t.ring.store i = Memory.find s.ring.store i) ∧
      t.ring = { s.ring with store := t.ring.store, used := BitVec.ofNat 32 (s.ring.used.toNat + n) } ∧
      t.ext = { s.ext with upPtr := s.ext.upPtr + n, upLen := s.ext.upLen - n,
                           upLog := s.ext.upLog ++ [UpRequest.getContiguous, UpRequest.remove n] } ∧
      t.params = s.params ∧ t.val = s.val ∧ t.diag = s.diag
    (s.Ready → s.ring.used.toNat ≤ s.regs.watermark.toNat →
      ∃ t, exec .fcDrain s = .next t ∧ admitted t ∧ t.ctl = s.ctl ∧ t.regs = { s.regs with result := BitVec.ofNat 32 n }) ∧
    (s.ctl.phase = .drainCheck →
      ∃ t, coreMove s = .next t ∧ admitted t ∧ t.ctl = { s.ctl with phase := .idle } ∧
        t.regs = { s.regs with result := BitVec.ofNat 32 n }) ∧
    (s.ctl.phase = .runDrain → s.ring.used.toNat ≤ s.ctl.loopWatermark.toNat →
      ∃ t, coreMove s = .next t ∧ admitted t ∧ t.ctl = { s.ctl with phase := .runProcess } ∧ t.regs = s.regs)

/-- A run outside the FIFO region or covering the flag byte ends the drain step with UPSTREAM_CONTRACT, before any copy or release
(R70, R152, R231). The model's inferences: the PHASE of the check after a wake is log 5, and that the loop's WATERMARK is that of
its issue log 6 (R81(a)). -/
def Obligations.DrainRejectsBadRun : Prop :=
  ∀ s : State, 0 < s.ext.upLen →
    (s.params.fifoSize < s.ext.upPtr + s.ext.upLen ∨
      (s.ext.upPtr ≤ s.params.ovfOffset ∧ s.params.ovfOffset < s.ext.upPtr + s.ext.upLen)) →
    let asked := { s with ext.upLog := s.ext.upLog ++ [UpRequest.getContiguous] }
    (s.Ready → s.ring.used.toNat ≤ s.regs.watermark.toNat →
      exec .fcDrain s = .next (asked.raiseFault .upstreamContract 0x10000000)) ∧
    (s.ctl.phase = .drainCheck → coreMove s = .next (asked.raiseFault .upstreamContract 0x10000000)) ∧
    (s.ctl.phase = .runDrain → s.ring.used.toNat ≤ s.ctl.loopWatermark.toNat →
      coreMove s = .next (asked.raiseFault .upstreamContract 0x31000000))

/-- A host-issued drain step with nothing upstream (R154, R155): the flag is latched and its edge logged; then BufferOverflow if the
flag was ever seen and the buffer is empty, success with 0 if there is a backlog, else the wait. The check after a wake is the same
without the watermark test: with nothing to be had the core waits again (R156; its PHASE is log 5). -/
def Obligations.DrainWithEmptyUpstream : Prop :=
  ∀ s : State, s.params.ovfOffset < s.params.fifoSize → s.ext.upLen = 0 →
    let seen := s.ctl.ovfSeen = true ∨ s.flagByte ≠ 0
    let outcome := fun out : Out =>
      (seen ∧ s.ring.used = 0 → out = .next (s.overflowChecked.terminate .bufferOverflow .bufferOverflow 0x10000000)) ∧
      (¬ seen ∧ s.ring.used = 0 →
        out = .next { s with ctl.phase := .drainWait, ext.upLog := s.ext.upLog ++ [.getContiguous] }) ∧
      (s.ring.used ≠ 0 → out = .next { s.overflowChecked with ctl.phase := .idle, regs.result := 0 })
    (s.Ready → s.ring.used.toNat ≤ s.regs.watermark.toNat → outcome (exec .fcDrain s)) ∧
    (s.ctl.phase = .drainCheck → outcome (coreMove s))

/-- The same drain step in LOOP.RUN (R203): RESULT is not written, a wait is RUN_WAIT, a backlog leads to RUN_PROCESS.
That the loop's WATERMARK is that of its issue is log 6 (R81(a)). -/
def Obligations.LoopDrainWithEmptyUpstream : Prop :=
  ∀ s : State, s.ctl.phase = .runDrain → s.params.ovfOffset < s.params.fifoSize →
    s.ring.used.toNat ≤ s.ctl.loopWatermark.toNat → s.ext.upLen = 0 →
    let seen := s.ctl.ovfSeen = true ∨ s.flagByte ≠ 0
    (seen ∧ s.ring.used = 0 → coreMove s = .next (s.overflowChecked.terminate .bufferOverflow .bufferOverflow 0x31000000)) ∧
    (¬ seen ∧ s.ring.used = 0 →
      coreMove s = .next { s with ctl.phase := .runWait, ext.upLog := s.ext.upLog ++ [.getContiguous] }) ∧
    (s.ring.used ≠ 0 → coreMove s = .next { s.overflowChecked with ctl.phase := .runProcess })

/-- OVF_SEEN is set, never cleared except by power-on reset; the number of OverflowDetected records grows by one exactly when it
rises, and a rise is that of a drain check that found nothing upstream and a nonzero flag, whose record is the first of the step
(R30, R155). -/
def Obligations.OverflowLatchHolds : Prop :=
  ∀ s t : State, step s = .next t → currentTurn s ≠ .powerOnReset →
    let rises := s.ctl.ovfSeen = false ∧ t.ctl.ovfSeen = true
    let edges := fun u : State => u.ext.log.countP (fun r => r matches .overflowDetected _ _ _)
    (s.ctl.ovfSeen = true → t.ctl.ovfSeen = true) ∧ edges t = edges s + (if rises then 1 else 0) ∧
    (rises → s.flagByte ≠ 0 ∧ s.ext.upLen = 0 ∧
      ∃ after, t.ext.log = s.ext.log ++ .overflowDetected s.ring.head s.ring.used (BitVec.ofNat 32 s.params.cap) :: after)

/-- A waiting core leaves `Wait()` on its own turn exactly when a notification is pending, and on a spurious wake at any time; a
notification is consumed by the first, and nothing else changes (R156, R241; the phase a host-issued drain wakes to is log 5). -/
def Obligations.WaitAndWake : Prop :=
  ∀ s : State, s.isWaiting = true →
    let back := if s.ctl.phase = .runWait then Phase.runDrain else Phase.drainCheck
    (s.ctl.notifyPend = true → coreMove s = .next { s with ctl.notifyPend := false, ctl.phase := back }) ∧
    (s.ctl.notifyPend = false → coreMove s = .next s) ∧
    takeTurn .spuriousWake s = .next { s with ctl.phase := back }

/-- R240: a notification sets NOTIFY_PEND if notifications are latched or the core is waiting, else does nothing; only a completing
wait or power-on reset clears it. -/
def Obligations.NotifyInputSetsPending : Prop :=
  (∀ s : State, takeTurn (.producer .notify) s =
    .next { s with ctl.notifyPend :=
      if s.params.notifyLatched = true ∨ s.ctl.phase = .drainWait ∨ s.ctl.phase = .runWait then true else s.ctl.notifyPend }) ∧
  ∀ s t : State, step s = .next t → s.ctl.notifyPend = true → t.ctl.notifyPend = false →
    currentTurn s = .powerOnReset ∨ (currentTurn s = .core ∧ s.isWaiting = true)

/-- Under PRODUCER_PROGRESS a wait ends, in every run (R277; that the core gets a turn in the end is log 3). -/
def Obligations.WaitEndsUnderProducerProgress : Prop :=
  ∀ r : Nat → State, IsRun r → ProducerProgress r → (r 0).isWaiting = true → ∃ n, (r n).isWaiting = false

/-- OS.READ (R190): RESULT is the flag byte, zero-extended, and nothing else changes; allowed before RB.INIT and with a span out. -/
def Obligations.OsReadReturnsFlag : Prop :=
  ∀ s : State, s.Idle → s.params.ovfOffset < s.params.fifoSize →
    exec .osRead s = .next { s with regs.result := s.flagByte.setWidth 32 }

/-! ### SequenceValidator -/

/-- One byte examined (R27, R171 to R173, R175): the counter, the window with the byte in front, the expected byte, the capture on a
mismatch only, and the throughput record if due (its period 65536 is log 12's). -/
def Obligations.ExamineOneByte : Prop :=
  ∀ (s : State) (b : Byte), s.Inv →
    let t := s.examine b
    t.val.bytesProcessed = s.val.bytesProcessed + 1 ∧ t.val.expected = b + 1 ∧ t.val.win.length = s.params.winLen ∧
    t.val.win.getD 0 0 = b ∧ (∀ j, 0 < j → j < s.params.winLen → t.val.win.getD j 0 = s.val.win.getD (j - 1) 0) ∧
    t.val.winCount.toNat = min (s.val.winCount.toNat + 1) s.params.winLen ∧
    (b = s.val.expected → t.diag = s.diag) ∧
    (b ≠ s.val.expected → t.diag = ⟨true, s.val.expected, b, s.ring.head, s.ring.used, BitVec.ofNat 32 s.params.cap,
      s.val.bytesProcessed + 1, t.val.win, t.val.winCount⟩) ∧
    t.ext.log = s.ext.log ++
      (if (s.val.bytesProcessed + 1).toNat % 65536 = 0 then [.throughput (s.val.bytesProcessed + 1)] else []) ∧
    t.ring = s.ring ∧ t.ctl = s.ctl ∧ t.regs = s.regs

/-- A process step over data that matches examines all of it, across the wrap (R170, R171, R175, R176): host-issued. The period of
the throughput records is log 12's. -/
def Obligations.ProcessExaminesMatchingData : Prop :=
  ∀ s : State, s.Inv → s.Ready → matchLen s.val.expected s.contents = s.ring.used.toNat →
    exec .svProcess s = .next { s.examinedAll with regs.result := s.ring.used }

/-- A process step that meets a mismatch at logical offset `m` (R170 to R177): it examines and flushes `m + 1` bytes, captures the
context, resynchronises, and reports; with the fatal policy it then terminates, else it completes with the count. The period of the
throughput records is log 12's. -/
def Obligations.ProcessStopsAtMismatch : Prop :=
  ∀ (s : State) (m : Nat) (b : Byte), s.Inv → s.Ready → matchLen s.val.expected s.contents = m → s.contents[m]? = some b →
    (s.regs.config.getLsbD 0 = false →
      exec .svProcess s = .next { s.examinedTo m b with regs.result := BitVec.ofNat 32 (m + 1) }) ∧
    (s.regs.config.getLsbD 0 = true →
      exec .svProcess s = .next ((s.examinedTo m b).terminate .validationMismatch .validationMismatch 0x18000000))

/-- The process step of LOOP.RUN leaves what SV.PROCESS leaves in ring, validator, capture, MISMATCH and LOG, with the CONFIG of the
loop's issue (R81(a), log 6) and without RESULT: it goes on to RUN_DRAIN, a non-fatal mismatch included, unless a fatal mismatch
terminates it (R203). The period of the throughput records is log 12's. -/
def Obligations.LoopProcessStep : Prop :=
  ∀ s : State, s.Inv → s.ctl.phase = .runProcess →
    (matchLen s.val.expected s.contents = s.ring.used.toNat →
      s.examinedAll.contents = [] ∧ coreMove s = .next { s.examinedAll with ctl.phase := .runDrain }) ∧
    ∀ (m : Nat) (b : Byte), matchLen s.val.expected s.contents = m → s.contents[m]? = some b →
      (s.examinedTo m b).contents = s.contents.drop (m + 1) ∧
      (s.ctl.loopConfig.getLsbD 0 = false → coreMove s = .next { s.examinedTo m b with ctl.phase := .runDrain }) ∧
      (s.ctl.loopConfig.getLsbD 0 = true →
        coreMove s = .next ((s.examinedTo m b).terminate .validationMismatch .validationMismatch 0x31000000))

/-- Only SV.PROCESS among the commands writes validator state and the capture registers (R26, R28, R29). -/
def Obligations.ValidatorWrittenByProcessOnly : Prop :=
  ∀ (i : Instr) (s t : State), i ≠ .svProcess → exec i s = .next t → t.val = s.val ∧ t.diag = s.diag ∧ t.ctl.mismatch = s.ctl.mismatch

/-! ### Control loop and sink -/

/-- LOOP.START (R200): STARTED and one Running record, RESULT 0, nothing else; a second one faults with RESTART. -/
def Obligations.LoopStartMarksOnce : Prop :=
  ∀ s : State, s.Idle →
    (s.ctl.started = false →
      exec .loopStart s = .next { s with ctl.started := true, regs.result := 0, ext.log := s.ext.log ++ [.running] }) ∧
    (s.ctl.started = true → Traps .loopStart s .restart)

/-- LOOP.RUN (R202): the marker if it has not been emitted, then RUN_DRAIN; RESULT is not written and BUSY reads 1. CONFIG
and WATERMARK are taken as operands (R81(a), log 6). -/
def Obligations.LoopRunEntersLoop : Prop :=
  ∀ s : State, s.Ready → ∃ t, exec .loopRun s = .next t ∧ t.isBusy = true ∧
    t = { s with
      ctl := { s.ctl with started := true, phase := .runDrain, loopConfig := s.regs.config, loopWatermark := s.regs.watermark }
      ext.log := if s.ctl.started then s.ext.log else s.ext.log ++ [.running] }

/-- LOOP.RUN's own steps never write a host register, and end in a phase of the loop or terminated (R202, R203). -/
def Obligations.LoopNeverCompletes : Prop :=
  ∀ s t : State, s.ctl.phase.looping = true → coreMove s = .next t →
    t.regs = s.regs ∧ (t.ctl.phase.looping = true ∨ t.ctl.phase = .terminated)

/-- Exactly one Running record per power-on: a step adds one exactly when it sets STARTED, and STARTED is never cleared but by
power-on reset (R201). -/
def Obligations.RunningMarkerOncePerPowerOn : Prop :=
  ∀ s t : State, step s = .next t → currentTurn s ≠ .powerOnReset →
    (s.ctl.started = true → t.ctl.started = true) ∧
    t.ext.log.count .running =
      s.ext.log.count .running + (if s.ctl.started = false ∧ t.ctl.started = true then 1 else 0)

/-- The LOG only grows, at its end (R210). -/
def Obligations.LogIsAppendOnly : Prop := ∀ s t : State, step s = .next t → s.ext.log <+: t.ext.log

/-- Every command but FC.DRAIN and LOOP.RUN ends in the step that issues it: afterwards the block is not busy (R272). -/
def Obligations.OnlyDrainAndLoopStayBusy : Prop :=
  ∀ (i : Instr) (s t : State), i ≠ .fcDrain → i ≠ .loopRun → s.Idle → exec i s = .next t → t.isBusy = false

/-! ### Host registers, store window and other agents -/

/-- R36: what a 32-bit read at each mapped offset returns, and that every other offset is unmapped. -/
def Obligations.RegisterMapReads : Prop :=
  ∀ s : State, s.params.ok = true →
    let reads := fun (off : Nat) (v : Word) => hostRead .b32 off s = .next { s with ext.hostData := v }
    reads 0x000 0 ∧ reads 0x004 s.regs.arg ∧ reads 0x008 s.regs.result ∧ reads 0x00C s.statusWord ∧
    reads 0x010 (BitVec.ofNat 32 s.params.cap) ∧ reads 0x014 s.ring.head ∧ reads 0x018 s.ring.used ∧
    reads 0x01C s.ring.spanOff ∧ reads 0x020 s.ring.spanLen ∧ reads 0x024 (s.val.expected.setWidth 32) ∧
    reads 0x028 (s.val.bytesProcessed.extractLsb' 0 32) ∧ reads 0x02C (s.val.bytesProcessed.extractLsb' 32 32) ∧
    reads 0x030 (s.regs.config &&& 1) ∧ reads 0x034 s.regs.watermark ∧
    (∃ v : Word, reads 0x038 v ∧ v.extractLsb' 0 8 = s.diag.exp ∧ v.extractLsb' 8 8 = s.diag.obs ∧
      v.getLsbD 16 = s.diag.valid ∧ v.extractLsb' 17 15 = 0) ∧
    reads 0x03C s.diag.head ∧ reads 0x040 s.diag.used ∧ reads 0x044 s.diag.cap ∧
    reads 0x048 (s.diag.bp.extractLsb' 0 32) ∧ reads 0x04C (s.diag.bp.extractLsb' 32 32) ∧ reads 0x050 s.val.winCount ∧
    reads 0x054 s.diag.winCount ∧ reads 0x058 s.ctl.faultCmd ∧
    (∀ j, j < s.params.winLen → reads (0x100 + 4 * j) ((s.val.win.getD j 0).setWidth 32) ∧
      reads (0x200 + 4 * j) ((s.diag.win.getD j 0).setWidth 32)) ∧
    (∀ off, regAt s.params off ≠ none → (off % 4 = 0 ∧ off ≤ 0x058) ∨
      ∃ j, j < s.params.winLen ∧ (off = 0x100 + 4 * j ∨ off = 0x200 + 4 * j))

/-- R37: an access that is not 32-bit, at a multiple of 4 and mapped is refused; a write of a read-only register has no effect; a
read changes no register. -/
def Obligations.RegisterAccessRules : Prop :=
  ∀ (s : State) (size : AccessSize) (off : Nat) (v : Word),
    (size ≠ .b32 ∨ off % 4 ≠ 0 ∨ regAt s.params off = none →
      hostWrite size off v s = .refused .hostRegisterAccess ∧ hostRead size off s = .refused .hostRegisterAccess) ∧
    (size = .b32 → off % 4 = 0 → ∀ r, regAt s.params off = some r →
      (r ∉ [.cmd, .arg, .config, .watermark] → hostWrite size off v s = .next s) ∧
      ∃ d, hostRead size off s = .next { s with ext.hostData := d })

/-- ARG, CONFIG and WATERMARK: what a host write stores, in any PHASE, and what a read then returns (R33, R34, R39). -/
def Obligations.WritableRegistersHoldLegalValues : Prop :=
  ∀ (s : State) (v : Word), s.params.ok = true →
    hostWrite .b32 0x004 v s = .next { s with regs.arg := v } ∧
    hostWrite .b32 0x030 v s = .next { s with regs.config := v &&& 1 } ∧
    (readReg { s with regs.config := v &&& 1 } .config).toNat = v.toNat % 2 ∧
    ∃ m : Word, hostWrite .b32 0x034 v s = .next { s with regs.watermark := m } ∧ m.toNat = min v.toNat s.params.cap

/-- R41: the fields of STATUS. -/
def Obligations.StatusFields : Prop :=
  ∀ s : State,
    s.statusWord.getLsbD 0 = s.ring.initDone ∧
    s.statusWord.getLsbD 1 = decide (s.ctl.phase ≠ .idle ∧ s.ctl.phase ≠ .terminated) ∧
    s.statusWord.getLsbD 2 = decide (s.ctl.phase = .drainWait ∨ s.ctl.phase = .runWait) ∧
    s.statusWord.getLsbD 3 = decide (s.ring.used.toNat = 0) ∧
    s.statusWord.getLsbD 4 = decide (s.ring.used.toNat = s.params.cap) ∧ s.statusWord.getLsbD 5 = s.ctl.ovfSeen ∧
    s.statusWord.getLsbD 6 = s.ring.spanOut ∧ s.statusWord.getLsbD 7 = s.ctl.started ∧
    s.statusWord.getLsbD 8 = s.ctl.mismatch ∧ s.statusWord.getLsbD 9 = decide (s.ctl.phase = .terminated) ∧
    s.statusWord.getLsbD 10 = s.ctl.notifyPend ∧ s.statusWord.getLsbD 11 = false ∧
    s.statusWord.extractLsb' 12 4 = s.ctl.outcome.code ∧ s.statusWord.extractLsb' 16 8 = s.ctl.cause.code ∧
    s.statusWord.extractLsb' 24 8 = 0

/-- The codes of OUTCOME and CAUSE that STATUS shows, as numbers, and the OUTCOME of each CAUSE (R221, R222). -/
def Obligations.OutcomeAndCauseCodes : Prop :=
  ∀ s : State,
    (s.statusWord.extractLsb' 12 4).toNat =
      (match s.ctl.outcome with
       | .none => 0
       | .bufferOverflow => 1
       | .validationMismatch => 2
       | .genericProcessingFailure => 3) ∧
    ((s.statusWord.extractLsb' 16 8).toNat, (Cause.outcome s.ctl.cause).code.toNat) =
      (match s.ctl.cause with
       | .none => (0x00, 0)
       | .bufferOverflow => (0x01, 1)
       | .validationMismatch => (0x02, 2)
       | .illegalCommand => (0x10, 3)
       | .cmdWhileBusy => (0x11, 3)
       | .notInitialized => (0x12, 3)
       | .initNoStore => (0x13, 3)
       | .reinit => (0x14, 3)
       | .spanHazard => (0x15, 3)
       | .flushExceedsSpan => (0x16, 3)
       | .hostAddrWrap => (0x17, 3)
       | .upstreamContract => (0x18, 3)
       | .restart => (0x19, 3))

/-- R62: the store window answers 8-bit reads below CAP, and refuses everything else; a read inside the valid data returns the byte
written there. -/
def Obligations.StoreWindowIsReadOnly : Prop :=
  ∀ (s : State) (size : AccessSize) (i : Nat) (v : Word) (rest : List HostAction),
    (size = .b8 → i < s.params.cap →
      hostReadWindow size i s = .next { s with ext.hostData := (Memory.byte .store s.ring.store i).setWidth 32 }) ∧
    (size ≠ .b8 ∨ s.params.cap ≤ i → hostReadWindow size i s = .refused .storeWindowAccess) ∧
    (s.ext.prog = .writeWindow size i v :: rest → hostMove s = .refused .storeWindowAccess) ∧
    (s.Inv → ∀ k, k < s.ring.used.toNat → i = s.ringIndex k → ∃ b, Memory.find s.ring.store i = some b ∧
      hostReadWindow .b8 i s = .next { s with ext.hostData := b.setWidth 32 })

/-- The producer's moves never touch the block's state but NOTIFY_PEND, nor host memory, nor the LOG (R75). -/
def Obligations.ProducerMovesStayOutside : Prop :=
  ∀ (m : ProducerMove) (s t : State), producerMove m s = .next t →
    t.params = s.params ∧ t.ring = s.ring ∧ t.val = s.val ∧ t.diag = s.diag ∧ t.regs = s.regs ∧
    t.ctl = { s.ctl with notifyPend := t.ctl.notifyPend } ∧
    t.ext = { s.ext with fifo := t.ext.fifo, upPtr := t.ext.upPtr, upLen := t.ext.upLen }

/-- R98: the host actions of the five pseudo-instructions; the flush of `rb.consume` is the CMD write of RB.FLUSH with the value
read, for every value LEN can hold (R91; a longer one is split, log 11). -/
def Obligations.PseudoInstructionsExpand : Prop :=
  (∀ (s : State) (rest : List HostAction), s.ext.prog = .flushRead :: rest → s.ext.hostData.toNat < 2 ^ 24 →
    hostMove s = issue (encode (.rbFlush s.ext.hostData)) { s with ext.prog := rest }) ∧
  ∀ addr n : Word,
    let cmd := fun w : Word => HostAction.writeReg .b32 0x000 w
    Line.iter.actions = [cmd 0x10000000, .waitIdle, cmd 0x18000000, .waitIdle] ∧
    Line.consume.actions = [cmd 0x05000000, .readReg .b32 0x020, .flushRead] ∧
    (Line.discard n).actions = (Line.command (.rbFlush n)).actions ∧
    (Line.readTo addr n).actions = [.writeReg .b32 0x004 addr] ++ (Line.command (.rbRead n)).actions ∧
    (Line.writeFrom addr n).actions = [.writeReg .b32 0x004 addr] ++ (Line.command (.rbWrite n)).actions
end

