-- ==== Sys2Proof/Laws/Memory.lean ====
section
/-! SUPPORT. The laws of the byte memories: read after write, the canonical form under writes, and what a run of reads or
writes does. -/

namespace Sys2Proof.Machine

/-- Reading after a write: the byte written at its index, every other index as before. -/
theorem Memory.find_write (m : Memory) (i j : Nat) (b : Byte) :
    Memory.find (Memory.write m i b) j = if i = j then some b else Memory.find m j := by
  induction m with
  | nil => simp [Memory.write, Memory.find]
  | cons c m ih =>
    unfold Memory.write
    split
    · simp [Memory.find]
    · split
      · next h => subst h; by_cases hj : c.1 = j <;> simp [Memory.find, hj]
      · next h =>
        by_cases hc : c.1 = j
        · subst hc; simp [Memory.find, Ne.symm h]
        · simp [Memory.find, hc, ih]

theorem Memory.byte_write_same (sp : Space) (m : Memory) (i : Nat) (b : Byte) :
    Memory.byte sp (Memory.write m i b) i = b := by simp [Memory.byte, Memory.find_write]

theorem Memory.byte_write_other (sp : Space) (m : Memory) {i j : Nat} (b : Byte) (h : i ≠ j) :
    Memory.byte sp (Memory.write m i b) j = Memory.byte sp m j := by simp [Memory.byte, Memory.find_write, h]

theorem Memory.byte_of_find {sp : Space} {m : Memory} {i : Nat} {b : Byte} (h : Memory.find m i = some b) :
    Memory.byte sp m i = b := by simp [Memory.byte, h]

/-- Two memories that agree on the written bytes at an index read the same there. -/
theorem Memory.byte_congr {sp : Space} {m m' : Memory} {i j : Nat} (h : Memory.find m i = Memory.find m' j)
    (hij : i = j) : Memory.byte sp m i = Memory.byte sp m' j := by subst hij; simp [Memory.byte, h]

theorem Memory.risesAbove_write (m : Memory) (lo i : Nat) (b : Byte) (h : Memory.risesAbove lo m = true) (hi : lo < i) :
    Memory.risesAbove lo (Memory.write m i b) = true := by
  induction m generalizing lo with
  | nil => simpa [Memory.write, Memory.risesAbove] using hi
  | cons c m ih =>
    simp only [Memory.risesAbove, Bool.and_eq_true, decide_eq_true_eq] at h
    unfold Memory.write
    split
    · next hlt => simp [Memory.risesAbove, hi, hlt, h.2]
    · split
      · next heq => subst heq; simp [Memory.risesAbove, h.1, h.2]
      · next hge hne => simp [Memory.risesAbove, h.1, ih c.1 h.2 (by omega)]

/-- A write keeps the canonical form. -/
theorem Memory.wf_write (m : Memory) (i : Nat) (b : Byte) (h : Memory.wf m = true) :
    Memory.wf (Memory.write m i b) = true := by
  cases m with
  | nil => simp [Memory.write, Memory.wf, Memory.risesAbove]
  | cons c m =>
    simp only [Memory.wf] at h
    unfold Memory.write
    split
    · next hlt => simp [Memory.wf, Memory.risesAbove, hlt, h]
    · split
      · next heq => subst heq; simpa [Memory.wf] using h
      · next hge hne => simpa [Memory.wf] using Memory.risesAbove_write m c.1 i b h (by omega)

/-- A write below a bound keeps the list below it. -/
theorem Memory.below_write (bound : Nat) (m : Memory) (i : Nat) (b : Byte) (h : Memory.below bound m = true)
    (hi : i < bound) : Memory.below bound (Memory.write m i b) = true := by
  induction m with
  | nil => simpa [Memory.write, Memory.below] using hi
  | cons c m ih =>
    simp only [Memory.below, Bool.and_eq_true, decide_eq_true_eq] at h
    unfold Memory.write
    split
    · simp [Memory.below, hi, h.1, h.2]
    · split
      · simp [Memory.below, hi, h.2]
      · simp [Memory.below, h.1, ih h.2]

/-- The memory after writing bytes at rising indices. -/
def Memory.writeList : Memory → Nat → List Byte → Memory
  | m, _, [] => m
  | m, i, b :: bs => Memory.writeList (Memory.write m i b) (i + 1) bs

theorem Memory.wf_writeList (m : Memory) (i : Nat) (bs : List Byte) (h : Memory.wf m = true) :
    Memory.wf (Memory.writeList m i bs) = true := by
  induction bs generalizing m i with
  | nil => exact h
  | cons b bs ih => exact ih _ _ (Memory.wf_write m i b h)

theorem Memory.below_writeList (bound : Nat) (m : Memory) (i : Nat) (bs : List Byte) (h : Memory.below bound m = true)
    (hi : i + bs.length ≤ bound) : Memory.below bound (Memory.writeList m i bs) = true := by
  induction bs generalizing m i with
  | nil => exact h
  | cons b bs ih =>
    simp only [List.length_cons] at hi
    exact ih _ _ (Memory.below_write bound m i b h (by omega)) (by omega)

/-- Reading after a run of writes: the run's byte inside it, the old one outside. -/
theorem Memory.find_writeList (m : Memory) (i j : Nat) (bs : List Byte) :
    Memory.find (Memory.writeList m i bs) j =
      if i ≤ j ∧ j < i + bs.length then bs[j - i]? else Memory.find m j := by
  induction bs generalizing m i with
  | nil =>
    have h : ¬ (i ≤ j ∧ j < i + ([] : List Byte).length) := by simp
    rw [if_neg h]; rfl
  | cons b bs ih =>
    rw [Memory.writeList, ih, Memory.find_write]
    simp only [List.length_cons]
    by_cases hij : i = j
    · subst hij; simp
    · by_cases h : i + 1 ≤ j ∧ j < i + 1 + bs.length
      · rw [if_pos h, if_pos (by omega)]
        obtain ⟨d, rfl⟩ : ∃ d, j = i + 1 + d := ⟨j - (i + 1), by omega⟩
        simp [show i + 1 + d - (i + 1) = d by omega, show i + 1 + d - i = d + 1 by omega]
      · rw [if_neg h, if_neg hij, if_neg (by omega)]

/-- A run of store writes inside the store writes exactly those bytes. -/
theorem writeRun_storeWrite (s : State) (i : Nat) (bs : List Byte) (h : i + bs.length ≤ s.params.cap) :
    writeRun storeWrite s i bs = .ok { s with ring.store := Memory.writeList s.ring.store i bs } := by
  induction bs generalizing s i with
  | nil => rfl
  | cons b bs ih =>
    simp only [List.length_cons] at h
    have hi : i < s.params.cap := by omega
    simp only [writeRun, storeWrite, if_pos hi]
    rw [ih _ _ (by simpa [Nat.add_assoc, Nat.add_comm] using h)]
    rfl

/-- A run of host-memory writes inside the address space writes exactly those bytes. -/
theorem writeRun_memWrite (s : State) (a : Nat) (bs : List Byte) (h : a + bs.length ≤ 2 ^ Config.hostAw) :
    writeRun memWrite s a bs = .ok { s with ext.hostMem := Memory.writeList s.ext.hostMem a bs } := by
  induction bs generalizing s a with
  | nil => rfl
  | cons b bs ih =>
    simp only [List.length_cons] at h
    have ha : a < 2 ^ Config.hostAw := by omega
    simp only [writeRun, memWrite, if_pos ha]
    rw [ih _ _ (by omega)]
    rfl

/-- A run of reads that all answer gives the bytes in order. -/
theorem readRun_ok (read : Nat → Except Fault Byte) (f : Nat → Byte) (i n : Nat)
    (h : ∀ k, k < n → read (i + k) = .ok (f (i + k))) :
    readRun read i n = .ok ((List.range n).map fun k => f (i + k)) := by
  induction n generalizing i with
  | zero => rfl
  | succ n ih =>
    have h0 := h 0 (by omega)
    simp only [Nat.add_zero] at h0
    have hs : ∀ k, k < n → read (i + 1 + k) = .ok (f (i + 1 + k)) := by
      intro k hk
      have := h (k + 1) (by omega)
      rwa [show i + (k + 1) = i + 1 + k by omega] at this
    simp only [readRun, h0, ih _ hs, List.range_succ_eq_map, List.map_cons, List.map_map, Nat.add_zero]
    congr 2
    apply List.map_congr_left
    intro k _
    simp [Nat.add_assoc, Nat.add_comm 1 k]

/-- A read run of host memory inside the address space. -/
theorem readRun_memRead (s : State) (a n : Nat) (h : a + n ≤ 2 ^ Config.hostAw) :
    readRun (memRead s) a n = .ok ((List.range n).map fun k => Memory.byte .host s.ext.hostMem (a + k)) :=
  readRun_ok _ (Memory.byte .host s.ext.hostMem) a n fun k hk => by
    have : a + k < 2 ^ Config.hostAw := by omega
    simp [memRead, this]

/-- A read run of the FIFO region inside it. -/
theorem readRun_fifoRead (s : State) (i n : Nat) (h : i + n ≤ s.params.fifoSize) :
    readRun (fifoRead s) i n = .ok ((List.range n).map fun k => Memory.byte .fifo s.ext.fifo (i + k)) :=
  readRun_ok _ (Memory.byte .fifo s.ext.fifo) i n fun k hk => by
    have : i + k < s.params.fifoSize := by omega
    simp [fifoRead, this]

/-- A read run of the store inside it. -/
theorem readRun_storeRead (s : State) (i n : Nat) (h : i + n ≤ s.params.cap) :
    readRun (storeRead s) i n = .ok ((List.range n).map fun k => Memory.byte .store s.ring.store (i + k)) :=
  readRun_ok _ (Memory.byte .store s.ring.store) i n fun k hk => by
    have : i + k < s.params.cap := by omega
    simp [storeRead, this]

end Sys2Proof.Machine
end

