-- ==== Sys2Proof/Laws/State.lean ====
section
/-! SUPPORT. What each named update does to each part of the state: one lemma per part per update, so that no later proof
unfolds a record update. -/

namespace Sys2Proof.Machine

@[simp] theorem State.emit_params (s : State) (r : Record) : (s.emit r).params = s.params := rfl
@[simp] theorem State.emit_ring (s : State) (r : Record) : (s.emit r).ring = s.ring := rfl
@[simp] theorem State.emit_val (s : State) (r : Record) : (s.emit r).val = s.val := rfl
@[simp] theorem State.emit_diag (s : State) (r : Record) : (s.emit r).diag = s.diag := rfl
@[simp] theorem State.emit_ctl (s : State) (r : Record) : (s.emit r).ctl = s.ctl := rfl
@[simp] theorem State.emit_regs (s : State) (r : Record) : (s.emit r).regs = s.regs := rfl
@[simp] theorem State.emit_ext (s : State) (r : Record) :
    (s.emit r).ext =
      { s.ext with log := s.ext.log ++ [r] } := rfl

@[simp] theorem State.setPhase_params (s : State) (p : Phase) : (s.setPhase p).params = s.params := rfl
@[simp] theorem State.setPhase_ring (s : State) (p : Phase) : (s.setPhase p).ring = s.ring := rfl
@[simp] theorem State.setPhase_val (s : State) (p : Phase) : (s.setPhase p).val = s.val := rfl
@[simp] theorem State.setPhase_diag (s : State) (p : Phase) : (s.setPhase p).diag = s.diag := rfl
@[simp] theorem State.setPhase_ctl (s : State) (p : Phase) : (s.setPhase p).ctl = { s.ctl with phase := p } := rfl
@[simp] theorem State.setPhase_regs (s : State) (p : Phase) : (s.setPhase p).regs = s.regs := rfl
@[simp] theorem State.setPhase_ext (s : State) (p : Phase) : (s.setPhase p).ext = s.ext := rfl

@[simp] theorem State.complete_params (s : State) (v : Word) : (s.complete v).params = s.params := rfl
@[simp] theorem State.complete_ring (s : State) (v : Word) : (s.complete v).ring = s.ring := rfl
@[simp] theorem State.complete_val (s : State) (v : Word) : (s.complete v).val = s.val := rfl
@[simp] theorem State.complete_diag (s : State) (v : Word) : (s.complete v).diag = s.diag := rfl
@[simp] theorem State.complete_ctl (s : State) (v : Word) : (s.complete v).ctl = { s.ctl with phase := .idle } := rfl
@[simp] theorem State.complete_regs (s : State) (v : Word) : (s.complete v).regs = { s.regs with result := v } := rfl
@[simp] theorem State.complete_ext (s : State) (v : Word) : (s.complete v).ext = s.ext := rfl

@[simp] theorem State.markTerminated_params (s : State) (o : EndOutcome) (c : Cause) (w : Word) :
    (s.markTerminated o c w).params =
      s.params := rfl
@[simp] theorem State.markTerminated_ring (s : State) (o : EndOutcome) (c : Cause) (w : Word) :
    (s.markTerminated o c w).ring =
      s.ring := rfl
@[simp] theorem State.markTerminated_val (s : State) (o : EndOutcome) (c : Cause) (w : Word) :
    (s.markTerminated o c w).val =
      s.val := rfl
@[simp] theorem State.markTerminated_diag (s : State) (o : EndOutcome) (c : Cause) (w : Word) :
    (s.markTerminated o c w).diag =
      s.diag := rfl
@[simp] theorem State.markTerminated_ctl (s : State) (o : EndOutcome) (c : Cause) (w : Word) :
    (s.markTerminated o c w).ctl =
      { s.ctl with outcome := o, cause := c, faultCmd := w, phase := .terminated } := rfl
@[simp] theorem State.markTerminated_regs (s : State) (o : EndOutcome) (c : Cause) (w : Word) :
    (s.markTerminated o c w).regs =
      s.regs := rfl
@[simp] theorem State.markTerminated_ext (s : State) (o : EndOutcome) (c : Cause) (w : Word) :
    (s.markTerminated o c w).ext =
      s.ext := rfl

@[simp] theorem State.terminate_params (s : State) (o : EndOutcome) (c : Cause) (w : Word) :
    (s.terminate o c w).params =
      s.params := rfl
@[simp] theorem State.terminate_ring (s : State) (o : EndOutcome) (c : Cause) (w : Word) :
    (s.terminate o c w).ring =
      s.ring := rfl
@[simp] theorem State.terminate_val (s : State) (o : EndOutcome) (c : Cause) (w : Word) :
    (s.terminate o c w).val =
      s.val := rfl
@[simp] theorem State.terminate_diag (s : State) (o : EndOutcome) (c : Cause) (w : Word) :
    (s.terminate o c w).diag =
      s.diag := rfl
@[simp] theorem State.terminate_ctl (s : State) (o : EndOutcome) (c : Cause) (w : Word) :
    (s.terminate o c w).ctl =
      { s.ctl with outcome := o, cause := c, faultCmd := w, phase := .terminated } := rfl
@[simp] theorem State.terminate_regs (s : State) (o : EndOutcome) (c : Cause) (w : Word) :
    (s.terminate o c w).regs =
      s.regs := rfl
@[simp] theorem State.terminate_ext (s : State) (o : EndOutcome) (c : Cause) (w : Word) :
    (s.terminate o c w).ext =
      { s.ext with log := s.ext.log ++ [s.fatalRecord o c w] } := rfl

@[simp] theorem State.raiseFault_params (s : State) (c : Cause) (w : Word) :
    (s.raiseFault c w).params =
      s.params := rfl
@[simp] theorem State.raiseFault_ring (s : State) (c : Cause) (w : Word) : (s.raiseFault c w).ring = s.ring := rfl
@[simp] theorem State.raiseFault_val (s : State) (c : Cause) (w : Word) : (s.raiseFault c w).val = s.val := rfl
@[simp] theorem State.raiseFault_diag (s : State) (c : Cause) (w : Word) : (s.raiseFault c w).diag = s.diag := rfl
@[simp] theorem State.raiseFault_ctl (s : State) (c : Cause) (w : Word) :
    (s.raiseFault c w).ctl =
      { s.ctl with outcome := .genericProcessingFailure, cause := c, faultCmd := w, phase := .terminated } := rfl
@[simp] theorem State.raiseFault_regs (s : State) (c : Cause) (w : Word) : (s.raiseFault c w).regs = s.regs := rfl
@[simp] theorem State.raiseFault_ext (s : State) (c : Cause) (w : Word) :
    (s.raiseFault c w).ext =
      { s.ext with log := s.ext.log ++ [s.fatalRecord .genericProcessingFailure c w] } := rfl

@[simp] theorem State.addUsed_params (s : State) (n : Nat) : (s.addUsed n).params = s.params := rfl
@[simp] theorem State.addUsed_ring (s : State) (n : Nat) :
    (s.addUsed n).ring =
      { s.ring with used := BitVec.ofNat 32 (s.ring.used.toNat + n) } := rfl
@[simp] theorem State.addUsed_val (s : State) (n : Nat) : (s.addUsed n).val = s.val := rfl
@[simp] theorem State.addUsed_diag (s : State) (n : Nat) : (s.addUsed n).diag = s.diag := rfl
@[simp] theorem State.addUsed_ctl (s : State) (n : Nat) : (s.addUsed n).ctl = s.ctl := rfl
@[simp] theorem State.addUsed_regs (s : State) (n : Nat) : (s.addUsed n).regs = s.regs := rfl
@[simp] theorem State.addUsed_ext (s : State) (n : Nat) : (s.addUsed n).ext = s.ext := rfl

@[simp] theorem State.zeroRing_params (s : State) : (s.zeroRing).params = s.params := rfl
@[simp] theorem State.zeroRing_ring (s : State) : (s.zeroRing).ring = { s.ring with head := 0, used := 0 } := rfl
@[simp] theorem State.zeroRing_val (s : State) : (s.zeroRing).val = s.val := rfl
@[simp] theorem State.zeroRing_diag (s : State) : (s.zeroRing).diag = s.diag := rfl
@[simp] theorem State.zeroRing_ctl (s : State) : (s.zeroRing).ctl = s.ctl := rfl
@[simp] theorem State.zeroRing_regs (s : State) : (s.zeroRing).regs = s.regs := rfl
@[simp] theorem State.zeroRing_ext (s : State) : (s.zeroRing).ext = s.ext := rfl

@[simp] theorem State.askUpstream_params (s : State) : (s.askUpstream).params = s.params := rfl
@[simp] theorem State.askUpstream_ring (s : State) : (s.askUpstream).ring = s.ring := rfl
@[simp] theorem State.askUpstream_val (s : State) : (s.askUpstream).val = s.val := rfl
@[simp] theorem State.askUpstream_diag (s : State) : (s.askUpstream).diag = s.diag := rfl
@[simp] theorem State.askUpstream_ctl (s : State) : (s.askUpstream).ctl = s.ctl := rfl
@[simp] theorem State.askUpstream_regs (s : State) : (s.askUpstream).regs = s.regs := rfl
@[simp] theorem State.askUpstream_ext (s : State) :
    (s.askUpstream).ext =
      { s.ext with upLog := s.ext.upLog ++ [.getContiguous] } := rfl

@[simp] theorem State.removeUpstream_params (s : State) (n : Nat) : (s.removeUpstream n).params = s.params := rfl
@[simp] theorem State.removeUpstream_ring (s : State) (n : Nat) : (s.removeUpstream n).ring = s.ring := rfl
@[simp] theorem State.removeUpstream_val (s : State) (n : Nat) : (s.removeUpstream n).val = s.val := rfl
@[simp] theorem State.removeUpstream_diag (s : State) (n : Nat) : (s.removeUpstream n).diag = s.diag := rfl
@[simp] theorem State.removeUpstream_ctl (s : State) (n : Nat) : (s.removeUpstream n).ctl = s.ctl := rfl
@[simp] theorem State.removeUpstream_regs (s : State) (n : Nat) : (s.removeUpstream n).regs = s.regs := rfl
@[simp] theorem State.removeUpstream_ext (s : State) (n : Nat) :
    (s.removeUpstream n).ext =
      { s.ext with upPtr := s.ext.upPtr + n, upLen := s.ext.upLen - n, upLog := s.ext.upLog ++ [.remove n] } := rfl

@[simp] theorem State.wakeOnNotify_params (s : State) : (s.wakeOnNotify).params = s.params := rfl
@[simp] theorem State.wakeOnNotify_ring (s : State) : (s.wakeOnNotify).ring = s.ring := rfl
@[simp] theorem State.wakeOnNotify_val (s : State) : (s.wakeOnNotify).val = s.val := rfl
@[simp] theorem State.wakeOnNotify_diag (s : State) : (s.wakeOnNotify).diag = s.diag := rfl
@[simp] theorem State.wakeOnNotify_ctl (s : State) :
    (s.wakeOnNotify).ctl =
      { s.ctl with notifyPend := false, phase := s.ctl.phase.wakesTo } := rfl
@[simp] theorem State.wakeOnNotify_regs (s : State) : (s.wakeOnNotify).regs = s.regs := rfl
@[simp] theorem State.wakeOnNotify_ext (s : State) : (s.wakeOnNotify).ext = s.ext := rfl

@[simp] theorem State.wakeSpurious_params (s : State) : (s.wakeSpurious).params = s.params := rfl
@[simp] theorem State.wakeSpurious_ring (s : State) : (s.wakeSpurious).ring = s.ring := rfl
@[simp] theorem State.wakeSpurious_val (s : State) : (s.wakeSpurious).val = s.val := rfl
@[simp] theorem State.wakeSpurious_diag (s : State) : (s.wakeSpurious).diag = s.diag := rfl
@[simp] theorem State.wakeSpurious_ctl (s : State) :
    (s.wakeSpurious).ctl =
      { s.ctl with phase := s.ctl.phase.wakesTo } := rfl
@[simp] theorem State.wakeSpurious_regs (s : State) : (s.wakeSpurious).regs = s.regs := rfl
@[simp] theorem State.wakeSpurious_ext (s : State) : (s.wakeSpurious).ext = s.ext := rfl

@[simp] theorem State.countByte_params (s : State) (b : Byte) : (s.countByte b).params = s.params := rfl
@[simp] theorem State.countByte_ring (s : State) (b : Byte) : (s.countByte b).ring = s.ring := rfl
@[simp] theorem State.countByte_val (s : State) (b : Byte) :
    (s.countByte b).val =
      { s.val with bytesProcessed := s.val.bytesProcessed + 1, win := pushWindow s.params.winLen s.val.win b, winCount := pushCount s.params.winLen s.val.winCount } := rfl
@[simp] theorem State.countByte_diag (s : State) (b : Byte) : (s.countByte b).diag = s.diag := rfl
@[simp] theorem State.countByte_ctl (s : State) (b : Byte) : (s.countByte b).ctl = s.ctl := rfl
@[simp] theorem State.countByte_regs (s : State) (b : Byte) : (s.countByte b).regs = s.regs := rfl
@[simp] theorem State.countByte_ext (s : State) (b : Byte) : (s.countByte b).ext = s.ext := rfl

@[simp] theorem State.capture_params (s : State) (b : Byte) : (s.capture b).params = s.params := rfl
@[simp] theorem State.capture_ring (s : State) (b : Byte) : (s.capture b).ring = s.ring := rfl
@[simp] theorem State.capture_val (s : State) (b : Byte) : (s.capture b).val = s.val := rfl
@[simp] theorem State.capture_diag (s : State) (b : Byte) :
    (s.capture b).diag =
      ⟨true, s.val.expected, b, s.ring.head, s.ring.used, Params.capWord s.params, s.val.bytesProcessed, s.val.win, s.val.winCount⟩ := rfl
@[simp] theorem State.capture_ctl (s : State) (b : Byte) : (s.capture b).ctl = s.ctl := rfl
@[simp] theorem State.capture_regs (s : State) (b : Byte) : (s.capture b).regs = s.regs := rfl
@[simp] theorem State.capture_ext (s : State) (b : Byte) : (s.capture b).ext = s.ext := rfl

@[simp] theorem State.resync_params (s : State) (b : Byte) : (s.resync b).params = s.params := rfl
@[simp] theorem State.resync_ring (s : State) (b : Byte) : (s.resync b).ring = s.ring := rfl
@[simp] theorem State.resync_val (s : State) (b : Byte) : (s.resync b).val = { s.val with expected := b + 1 } := rfl
@[simp] theorem State.resync_diag (s : State) (b : Byte) : (s.resync b).diag = s.diag := rfl
@[simp] theorem State.resync_ctl (s : State) (b : Byte) : (s.resync b).ctl = s.ctl := rfl
@[simp] theorem State.resync_regs (s : State) (b : Byte) : (s.resync b).regs = s.regs := rfl
@[simp] theorem State.resync_ext (s : State) (b : Byte) : (s.resync b).ext = s.ext := rfl

@[simp] theorem State.markStarted_params (s : State) : (s.markStarted).params = s.params := rfl
@[simp] theorem State.markStarted_ring (s : State) : (s.markStarted).ring = s.ring := rfl
@[simp] theorem State.markStarted_val (s : State) : (s.markStarted).val = s.val := rfl
@[simp] theorem State.markStarted_diag (s : State) : (s.markStarted).diag = s.diag := rfl
@[simp] theorem State.markStarted_ctl (s : State) : (s.markStarted).ctl = { s.ctl with started := true } := rfl
@[simp] theorem State.markStarted_regs (s : State) : (s.markStarted).regs = s.regs := rfl
@[simp] theorem State.markStarted_ext (s : State) :
    (s.markStarted).ext =
      { s.ext with log := s.ext.log ++ [.running] } := rfl

@[simp] theorem State.enterLoop_params (s : State) : (s.enterLoop).params = s.params := rfl
@[simp] theorem State.enterLoop_ring (s : State) : (s.enterLoop).ring = s.ring := rfl
@[simp] theorem State.enterLoop_val (s : State) : (s.enterLoop).val = s.val := rfl
@[simp] theorem State.enterLoop_diag (s : State) : (s.enterLoop).diag = s.diag := rfl
@[simp] theorem State.enterLoop_ctl (s : State) :
    (s.enterLoop).ctl =
      { s.ctl with loopConfig := s.regs.config, loopWatermark := s.regs.watermark, phase := .runDrain } := rfl
@[simp] theorem State.enterLoop_regs (s : State) : (s.enterLoop).regs = s.regs := rfl
@[simp] theorem State.enterLoop_ext (s : State) : (s.enterLoop).ext = s.ext := rfl

@[simp] theorem State.deliver_params (s : State) (v : Word) : (s.deliver v).params = s.params := rfl
@[simp] theorem State.deliver_ring (s : State) (v : Word) : (s.deliver v).ring = s.ring := rfl
@[simp] theorem State.deliver_val (s : State) (v : Word) : (s.deliver v).val = s.val := rfl
@[simp] theorem State.deliver_diag (s : State) (v : Word) : (s.deliver v).diag = s.diag := rfl
@[simp] theorem State.deliver_ctl (s : State) (v : Word) : (s.deliver v).ctl = s.ctl := rfl
@[simp] theorem State.deliver_regs (s : State) (v : Word) : (s.deliver v).regs = s.regs := rfl
@[simp] theorem State.deliver_ext (s : State) (v : Word) : (s.deliver v).ext = { s.ext with hostData := v } := rfl

@[simp] theorem State.setProg_params (s : State) (l : List HostAction) : (s.setProg l).params = s.params := rfl
@[simp] theorem State.setProg_ring (s : State) (l : List HostAction) : (s.setProg l).ring = s.ring := rfl
@[simp] theorem State.setProg_val (s : State) (l : List HostAction) : (s.setProg l).val = s.val := rfl
@[simp] theorem State.setProg_diag (s : State) (l : List HostAction) : (s.setProg l).diag = s.diag := rfl
@[simp] theorem State.setProg_ctl (s : State) (l : List HostAction) : (s.setProg l).ctl = s.ctl := rfl
@[simp] theorem State.setProg_regs (s : State) (l : List HostAction) : (s.setProg l).regs = s.regs := rfl
@[simp] theorem State.setProg_ext (s : State) (l : List HostAction) :
    (s.setProg l).ext =
      { s.ext with prog := l } := rfl

@[simp] theorem popTurn_params (s : State) : (popTurn s).params = s.params := rfl
@[simp] theorem popTurn_ring (s : State) : (popTurn s).ring = s.ring := rfl
@[simp] theorem popTurn_val (s : State) : (popTurn s).val = s.val := rfl
@[simp] theorem popTurn_diag (s : State) : (popTurn s).diag = s.diag := rfl
@[simp] theorem popTurn_ctl (s : State) : (popTurn s).ctl = s.ctl := rfl
@[simp] theorem popTurn_regs (s : State) : (popTurn s).regs = s.regs := rfl
@[simp] theorem popTurn_ext (s : State) : (popTurn s).ext = { s.ext with turns := s.ext.turns.tail } := rfl

@[simp] theorem State.powerOnReset_params (s : State) : (s.powerOnReset).params = s.params := rfl
@[simp] theorem State.powerOnReset_ring (s : State) : (s.powerOnReset).ring = Ring.powerOn s.ring.store := rfl
@[simp] theorem State.powerOnReset_val (s : State) : (s.powerOnReset).val = Validator.powerOn s.params := rfl
@[simp] theorem State.powerOnReset_diag (s : State) : (s.powerOnReset).diag = Diag.powerOn s.params := rfl
@[simp] theorem State.powerOnReset_ctl (s : State) : (s.powerOnReset).ctl = Control.powerOn := rfl
@[simp] theorem State.powerOnReset_regs (s : State) : (s.powerOnReset).regs = HostRegs.powerOn s.params := rfl
@[simp] theorem State.powerOnReset_ext (s : State) : (s.powerOnReset).ext = s.ext := rfl

@[simp] theorem State.powerOn_params (p : Params) : (State.powerOn p).params = p := rfl
@[simp] theorem State.powerOn_ring (p : Params) : (State.powerOn p).ring = Ring.powerOn [] := rfl
@[simp] theorem State.powerOn_val (p : Params) : (State.powerOn p).val = Validator.powerOn p := rfl
@[simp] theorem State.powerOn_diag (p : Params) : (State.powerOn p).diag = Diag.powerOn p := rfl
@[simp] theorem State.powerOn_ctl (p : Params) : (State.powerOn p).ctl = Control.powerOn := rfl
@[simp] theorem State.powerOn_regs (p : Params) : (State.powerOn p).regs = HostRegs.powerOn p := rfl
@[simp] theorem State.powerOn_ext (p : Params) : (State.powerOn p).ext = External.initial := rfl

@[simp] theorem State.notify_params (s : State) :
    (s.notify).params = s.params := by
  unfold State.notify; split <;> rfl
@[simp] theorem State.notify_ring (s : State) :
    (s.notify).ring = s.ring := by
  unfold State.notify; split <;> rfl
@[simp] theorem State.notify_val (s : State) :
    (s.notify).val = s.val := by
  unfold State.notify; split <;> rfl
@[simp] theorem State.notify_diag (s : State) :
    (s.notify).diag = s.diag := by
  unfold State.notify; split <;> rfl
@[simp] theorem State.notify_ctl (s : State) :
    (s.notify).ctl = { s.ctl with notifyPend := s.ctl.notifyPend || s.params.notifyLatched || s.isWaiting } := by
  unfold State.notify
  split
  · next h => simp [Bool.or_assoc, h]
  · next h => simp [Bool.or_assoc, h]
@[simp] theorem State.notify_regs (s : State) :
    (s.notify).regs = s.regs := by
  unfold State.notify; split <;> rfl
@[simp] theorem State.notify_ext (s : State) :
    (s.notify).ext = s.ext := by
  unfold State.notify; split <;> rfl

@[simp] theorem State.markThroughput_params (s : State) :
    (s.markThroughput).params = s.params := by
  unfold State.markThroughput; split <;> rfl
@[simp] theorem State.markThroughput_ring (s : State) :
    (s.markThroughput).ring = s.ring := by
  unfold State.markThroughput; split <;> rfl
@[simp] theorem State.markThroughput_val (s : State) :
    (s.markThroughput).val = s.val := by
  unfold State.markThroughput; split <;> rfl
@[simp] theorem State.markThroughput_diag (s : State) :
    (s.markThroughput).diag = s.diag := by
  unfold State.markThroughput; split <;> rfl
@[simp] theorem State.markThroughput_ctl (s : State) :
    (s.markThroughput).ctl = s.ctl := by
  unfold State.markThroughput; split <;> rfl
@[simp] theorem State.markThroughput_regs (s : State) :
    (s.markThroughput).regs = s.regs := by
  unfold State.markThroughput; split <;> rfl

@[simp] theorem State.latchOverflow_params (s : State) (b : Byte) :
    (s.latchOverflow b).params = s.params := by
  unfold State.latchOverflow; split <;> rfl
@[simp] theorem State.latchOverflow_ring (s : State) (b : Byte) :
    (s.latchOverflow b).ring = s.ring := by
  unfold State.latchOverflow; split <;> rfl
@[simp] theorem State.latchOverflow_val (s : State) (b : Byte) :
    (s.latchOverflow b).val = s.val := by
  unfold State.latchOverflow; split <;> rfl
@[simp] theorem State.latchOverflow_diag (s : State) (b : Byte) :
    (s.latchOverflow b).diag = s.diag := by
  unfold State.latchOverflow; split <;> rfl
@[simp] theorem State.latchOverflow_regs (s : State) (b : Byte) :
    (s.latchOverflow b).regs = s.regs := by
  unfold State.latchOverflow; split <;> rfl

@[simp] theorem ringDrop_params (s : State) (n : Nat) :
    (ringDrop s n).params = s.params := by
  unfold ringDrop; split <;> rfl
@[simp] theorem ringDrop_val (s : State) (n : Nat) :
    (ringDrop s n).val = s.val := by
  unfold ringDrop; split <;> rfl
@[simp] theorem ringDrop_diag (s : State) (n : Nat) :
    (ringDrop s n).diag = s.diag := by
  unfold ringDrop; split <;> rfl
@[simp] theorem ringDrop_ctl (s : State) (n : Nat) :
    (ringDrop s n).ctl = s.ctl := by
  unfold ringDrop; split <;> rfl
@[simp] theorem ringDrop_regs (s : State) (n : Nat) :
    (ringDrop s n).regs = s.regs := by
  unfold ringDrop; split <;> rfl
@[simp] theorem ringDrop_ext (s : State) (n : Nat) :
    (ringDrop s n).ext = s.ext := by
  unfold ringDrop; split <;> rfl

@[simp] theorem State.examine_params (s : State) (b : Byte) :
    (s.examine b).params = s.params := by
  unfold State.examine; dsimp only; split <;> simp
@[simp] theorem State.examine_ring (s : State) (b : Byte) :
    (s.examine b).ring = s.ring := by
  unfold State.examine; dsimp only; split <;> simp
@[simp] theorem State.examine_ctl (s : State) (b : Byte) :
    (s.examine b).ctl = s.ctl := by
  unfold State.examine; dsimp only; split <;> simp
@[simp] theorem State.examine_regs (s : State) (b : Byte) :
    (s.examine b).regs = s.regs := by
  unfold State.examine; dsimp only; split <;> simp

end Sys2Proof.Machine
end

