-- ==== Sys2Proof/Laws/Ring.lean ====
section
/-! SUPPORT. What ring insertion and removal do (41_ringbuffer.md R113, R115), said once. -/

namespace Sys2Proof.Machine

/-- `head` lies in the ring (R23). -/
def State.HeadOk (s : State) : Prop := 0 < s.params.cap → s.ring.head.toNat < s.params.cap

theorem State.Inv.headOk {s : State} (h : s.Inv) : s.HeadOk := h.head_lt_cap

/-- The ring index of a logical offset, before and after the end of the store (R13). -/
theorem State.ringIndex_eq (s : State) (k : Nat) (hh : s.ring.head.toNat < s.params.cap) (hk : k ≤ s.params.cap) :
    s.ringIndex k =
      if s.ring.head.toNat + k < s.params.cap then s.ring.head.toNat + k else s.ring.head.toNat + k - s.params.cap := by
  unfold State.ringIndex
  split
  · next h => exact Nat.mod_eq_of_lt h
  · next h =>
    rw [Nat.mod_eq_sub_mod (by omega)]
    exact Nat.mod_eq_of_lt (by omega)

theorem State.ringIndex_lt (s : State) (k : Nat) (h : 0 < s.params.cap) : s.ringIndex k < s.params.cap :=
  Nat.mod_lt _ h

/-- Distinct logical offsets inside one lap have distinct ring indices. -/
theorem State.ringIndex_inj (s : State) {j k : Nat} (hh : s.ring.head.toNat < s.params.cap) (hj : j < s.params.cap)
    (hk : k < s.params.cap) (h : s.ringIndex j = s.ringIndex k) : j = k := by
  rw [s.ringIndex_eq j hh (by omega), s.ringIndex_eq k hh (by omega)] at h
  split at h <;> split at h <;> omega

/-- What STORE holds after `RingPut` of `bytes` (R113). -/
def State.storeAfterPut (s : State) (bytes : List Byte) : Memory :=
  let ins := s.ringIndex s.ring.used.toNat
  let first := min bytes.length (s.params.cap - ins)
  Memory.writeList (Memory.writeList s.ring.store ins (bytes.take first)) 0 (bytes.drop first)

/-- `RingPut` answers whenever the bytes fit, and changes STORE and `used` only. -/
theorem ringPut_ok (s : State) (bytes : List Byte) (h : bytes.length ≤ s.params.cap - s.ring.used.toNat)
    (hne : bytes ≠ []) :
    ringPut s bytes = .ok
      { s with
        ring.store := s.storeAfterPut bytes
        ring.used := BitVec.ofNat 32 (s.ring.used.toNat + bytes.length) } := by
  have hlen : 0 < bytes.length := List.length_pos_of_ne_nil hne
  have hcap : 0 < s.params.cap := by omega
  have hins := s.ringIndex_lt s.ring.used.toNat hcap
  have hfirst : s.ringIndex s.ring.used.toNat +
      (bytes.take (min bytes.length (s.params.cap - s.ringIndex s.ring.used.toNat))).length ≤ s.params.cap := by
    simp only [List.length_take]; omega
  have hsecond : 0 + (bytes.drop (min bytes.length (s.params.cap - s.ringIndex s.ring.used.toNat))).length ≤
      s.params.cap := by
    simp only [List.length_drop]; omega
  unfold ringPut
  rw [if_neg (by omega)]
  simp only [writeRun_storeWrite s _ _ hfirst]
  rw [writeRun_storeWrite]
  · rfl
  · exact hsecond

theorem ringPut_nil (s : State) : ringPut s [] = .ok s := rfl

/-- The byte STORE holds at each new valid index after `RingPut`: source byte `k` at logical offset `used + k`, "preserving byte
order" (R66, R113). -/
theorem State.find_storeAfterPut_new (s : State) (bytes : List Byte) (hh : s.HeadOk)
    (h : bytes.length ≤ s.params.cap - s.ring.used.toNat) (k : Nat) (hk : k < bytes.length) :
    Memory.find (s.storeAfterPut bytes) (s.ringIndex (s.ring.used.toNat + k)) = some bytes[k] := by
  have hcap : 0 < s.params.cap := by omega
  have hh' := hh hcap
  unfold State.storeAfterPut
  simp only [Memory.find_writeList, List.length_take, List.length_drop]
  have hu := s.ringIndex_eq s.ring.used.toNat hh' (by omega)
  have hk' := s.ringIndex_eq (s.ring.used.toNat + k) hh' (by omega)
  have hins := s.ringIndex_lt s.ring.used.toNat hcap
  generalize s.ringIndex s.ring.used.toNat = ins at *
  generalize s.ringIndex (s.ring.used.toNat + k) = at' at *
  by_cases hw : k < s.params.cap - ins
  · have hat : at' = ins + k := by
      split at hu <;> split at hk' <;> omega
    subst hat
    rw [if_neg (by omega), if_pos (by omega)]
    rw [show ins + k - ins = k by omega, List.getElem?_take]
    rw [if_pos (by omega)]
    simp [hk]
  · have hat : at' = k - (s.params.cap - ins) := by
      split at hu <;> split at hk' <;> omega
    subst hat
    rw [if_pos (by omega)]
    simp only [List.getElem?_drop, Nat.sub_zero]
    rw [show min bytes.length (s.params.cap - ins) + (k - (s.params.cap - ins)) = k by omega]
    simp [hk]

/-- Every other index of STORE is unchanged by `RingPut` (R113). -/
theorem State.find_storeAfterPut_other (s : State) (bytes : List Byte) (hh : s.HeadOk)
    (h : bytes.length ≤ s.params.cap - s.ring.used.toNat) (i : Nat)
    (hi : ∀ k, k < bytes.length → s.ringIndex (s.ring.used.toNat + k) ≠ i) :
    Memory.find (s.storeAfterPut bytes) i = Memory.find s.ring.store i := by
  by_cases hb : bytes = []
  · subst hb; simp [State.storeAfterPut, Memory.writeList]
  have hlen : 0 < bytes.length := List.length_pos_of_ne_nil hb
  have hcap : 0 < s.params.cap := by omega
  have hh' := hh hcap
  unfold State.storeAfterPut
  simp only [Memory.find_writeList, List.length_take, List.length_drop]
  have hu := s.ringIndex_eq s.ring.used.toNat hh' (by omega)
  have hins := s.ringIndex_lt s.ring.used.toNat hcap
  have key : ∀ k, k < bytes.length → k < s.params.cap - s.ringIndex s.ring.used.toNat →
      s.ringIndex s.ring.used.toNat + k ≠ i := by
    intro k hk hw
    have := hi k hk
    rw [s.ringIndex_eq _ hh' (by omega)] at this
    split at hu <;> split at this <;> omega
  have key2 : ∀ k, k < bytes.length → s.params.cap - s.ringIndex s.ring.used.toNat ≤ k →
      k - (s.params.cap - s.ringIndex s.ring.used.toNat) ≠ i := by
    intro k hk hw
    have := hi k hk
    rw [s.ringIndex_eq _ hh' (by omega)] at this
    split at hu <;> split at this <;> omega
  generalize s.ringIndex s.ring.used.toNat = ins at *
  rw [if_neg, if_neg]
  · rintro ⟨h1, h2⟩
    exact key (i - ins) (by omega) (by omega) (by omega)
  · rintro ⟨h1, h2⟩
    exact key2 (i + (s.params.cap - ins)) (by omega) (by omega) (by omega)

theorem State.wf_storeAfterPut (s : State) (bytes : List Byte) (h : Memory.wf s.ring.store = true) :
    Memory.wf (s.storeAfterPut bytes) = true :=
  Memory.wf_writeList _ _ _ (Memory.wf_writeList _ _ _ h)

theorem State.below_storeAfterPut (s : State) (bytes : List Byte) (h : Memory.below s.params.cap s.ring.store = true)
    (hf : bytes.length ≤ s.params.cap - s.ring.used.toNat) :
    Memory.below s.params.cap (s.storeAfterPut bytes) = true := by
  by_cases hb : bytes = []
  · subst hb; simpa [State.storeAfterPut, Memory.writeList] using h
  have hlen : 0 < bytes.length := List.length_pos_of_ne_nil hb
  have hins := s.ringIndex_lt s.ring.used.toNat (by omega)
  unfold State.storeAfterPut
  refine Memory.below_writeList _ _ _ _ (Memory.below_writeList _ _ _ _ h ?_) ?_
  · simp only [List.length_take]; omega
  · simp only [List.length_drop]; omega

/-- `RingTake` with a destination delivers the oldest `n` bytes in logical order (R115). -/
theorem ringPeek_ok (s : State) (n : Nat) (hh : s.HeadOk) (hn : n ≤ s.params.cap) :
    ringPeek s n = .ok ((List.range n).map s.ringByte) := by
  unfold ringPeek
  split
  · next h => subst h; rfl
  · next h =>
    have hcap : 0 < s.params.cap := by omega
    have hh' := hh hcap
    simp only
    rw [readRun_storeRead s _ _ (by omega)]
    simp only
    rw [readRun_storeRead s _ _ (by omega)]
    simp only
    congr 1
    apply List.ext_getElem
    · simp
    · intro k hk1 hk2
      simp only [List.length_append, List.length_map, List.length_range] at hk1 hk2
      simp only [List.getElem_map, List.getElem_range, State.ringByte]
      rw [s.ringIndex_eq k hh' (by omega)]
      by_cases hw : k < min n (s.params.cap - s.ring.head.toNat)
      · rw [List.getElem_append_left (by simpa using hw)]
        simp only [List.getElem_map, List.getElem_range]
        rw [if_pos (by omega)]
      · rw [List.getElem_append_right (by simp only [List.length_map, List.length_range]; omega)]
        simp only [List.getElem_map, List.getElem_range, List.length_map, List.length_range]
        rw [if_neg (by omega)]
        congr 1; omega

/-- `RingTake` moves `head` by `n` modulo CAP and takes `n` off `used` (R115). -/
theorem ringDrop_ring (s : State) (n : Nat) :
    (ringDrop s n).ring = if n = 0 then s.ring else
      { s.ring with head := BitVec.ofNat 32 (s.ringIndex n), used := BitVec.ofNat 32 (s.ring.used.toNat - n) } := by
  unfold ringDrop; split <;> rfl

end Sys2Proof.Machine
end

