-- ==== Sys2Proof/Laws/Exec.lean ====
section
/-! SUPPORT. What the shared operations of the meanings can do, each said once: the common checks, termination, the drain
check, the examined span, a CMD write. -/

namespace Sys2Proof.Machine

theorem State.isTerminated_of_idle {s : State} (h : s.ctl.phase = .idle) : s.isTerminated = false := by
  simp [State.isTerminated, h]

theorem State.isBusy_of_idle {s : State} (h : s.ctl.phase = .idle) : s.isBusy = false := by
  simp [State.isBusy, h, Phase.busy]

/-- PHASE is idle, or a command runs, or the block has terminated (R32, R41). -/
theorem State.phase_cases (s : State) :
    s.ctl.phase = .idle ∨ s.isBusy = true ∧ s.isTerminated = false ∨ s.ctl.phase = .terminated ∧ s.isBusy = false := by
  cases h : s.ctl.phase <;> simp [State.isBusy, State.isTerminated, Phase.busy, h]

/-- `complete` leaves the control state of an idle block as it was. -/
theorem State.complete_ctl_of_idle {s : State} (v : Word) (h : s.ctl.phase = .idle) : (s.complete v).ctl = s.ctl := by
  cases s with
  | mk params ring val diag ctl regs ext => cases ctl; simp_all

theorem acceptCmd_idle {s : State} (w : Word) (run : Out) (h : s.ctl.phase = .idle) : acceptCmd w s run = run := by
  simp [acceptCmd, State.isTerminated_of_idle h, State.isBusy_of_idle h]

theorem acceptCmd_busy {s : State} (w : Word) (run : Out) (h : s.isBusy = true) :
    acceptCmd w s run = .next (s.raiseFault .cmdWhileBusy w) := by
  have ht : s.isTerminated = false := by
    cases hp : s.ctl.phase <;> simp_all [State.isBusy, Phase.busy, State.isTerminated]
  simp [acceptCmd, h, ht]

theorem acceptCmd_terminated {s : State} (w : Word) (run : Out) (h : s.ctl.phase = .terminated) :
    acceptCmd w s run = .next s := by
  simp [acceptCmd, State.isTerminated, h]

/-- A command that passes the common checks runs its body (R235, check 8). -/
theorem commonChecks_pass {i : Instr} {s : State} (body : Out) (h : s.ctl.phase = .idle) (hv : violated i s = none) :
    commonChecks i s body = body := by
  simp [commonChecks, acceptCmd_idle _ _ h, hv]

/-- A command that fails one of the checks 4 to 7 faults with its cause (R235). -/
theorem commonChecks_fail {i : Instr} {s : State} {c : Cause} (body : Out) (h : s.ctl.phase = .idle)
    (hv : violated i s = some c) : commonChecks i s body = .next (s.raiseFault c (encode i)) := by
  simp [commonChecks, acceptCmd_idle _ _ h, hv]

/-- Everything the common checks can answer with a next state. -/
theorem commonChecks_next {i : Instr} {s t : State} {body : Out} (h : commonChecks i s body = .next t) :
    (s.ctl.phase = .terminated ∧ t = s) ∨
    (s.isBusy = true ∧ t = s.raiseFault .cmdWhileBusy (encode i)) ∨
    (s.ctl.phase = .idle ∧ ∃ c, violated i s = some c ∧ t = s.raiseFault c (encode i)) ∨
    (s.ctl.phase = .idle ∧ violated i s = none ∧ body = .next t) := by
  rcases s.phase_cases with hi | ⟨hb, -⟩ | ⟨ht, -⟩
  · cases hv : violated i s with
    | none => rw [commonChecks_pass body hi hv] at h; exact .inr (.inr (.inr ⟨hi, rfl, h⟩))
    | some c =>
      rw [commonChecks_fail body hi hv] at h
      exact .inr (.inr (.inl ⟨hi, c, rfl, by injection h with h; exact h.symm⟩))
  · rw [commonChecks, acceptCmd_busy _ _ hb] at h
    exact .inr (.inl ⟨hb, by injection h with h; exact h.symm⟩)
  · rw [commonChecks, acceptCmd_terminated _ _ ht] at h
    exact .inl ⟨ht, by injection h with h; exact h.symm⟩

/-- No check applies to a command other than RB.INIT and LOOP.START on a ready block (R235). -/
theorem violated_ready {i : Instr} {s : State} (h : s.Ready) (h1 : i ≠ .rbInit) (h2 : i ≠ .loopStart) :
    violated i s = none := by
  obtain ⟨-, hd, ho⟩ := h
  simp [violated, hd, ho, h1, h2]

/-- An illegal word: checks 1 to 3 of R235. -/
theorem issue_illegal {w : Word} {s : State} {e : DecodeError} (h : decode w = .error e) :
    issue w s = acceptCmd w s (.next (s.raiseFault .illegalCommand w)) := by simp [issue, h]

theorem issue_decoded {w : Word} {s : State} {i : Instr} (h : decode w = .ok i) : issue w s = exec i s := by simp [issue, h]

/-- Everything a drain check can answer (R152). -/
theorem drainCheck_cases (word : Word) (s : State) :
    (0 < s.ext.upLen ∧ runAllowed s.params s.ext.upPtr s.ext.upLen = false ∧
      drainCheck word s = .fatal (s.askUpstream.raiseFault .upstreamContract word)) ∨
    (0 < s.ext.upLen ∧ runAllowed s.params s.ext.upPtr s.ext.upLen = true ∧
      drainCheck word s = drainTransfer s.askUpstream) ∨
    (s.ext.upLen = 0 ∧ drainCheck word s = drainIdle word s.askUpstream) := by
  unfold drainCheck
  by_cases h : 0 < s.ext.upLen
  · cases ha : runAllowed s.params s.ext.upPtr s.ext.upLen <;> simp [h]
  · simp [h]
    omega

/-- The latch changes OVF_SEEN from 0 to 1 only, with one record (R155). -/
theorem State.latchOverflow_cases (s : State) (flag : Byte) :
    (flag ≠ 0 ∧ s.ctl.ovfSeen = false ∧
      s.latchOverflow flag = { s with
        ctl.ovfSeen := true
        ext.log := s.ext.log ++ [.overflowDetected s.ring.head s.ring.used (Params.capWord s.params)] }) ∨
    ((flag = 0 ∨ s.ctl.ovfSeen = true) ∧ s.latchOverflow flag = s) := by
  by_cases hf : flag = 0
  · exact .inr ⟨.inl hf, by simp [State.latchOverflow, hf]⟩
  · cases ho : s.ctl.ovfSeen with
    | true => exact .inr ⟨.inr rfl, by simp [State.latchOverflow, ho]⟩
    | false =>
      have hf' : ¬ flag = 0#8 := hf
      exact .inl ⟨hf, rfl, by simp [State.latchOverflow, hf', ho, State.emit]⟩

/-- With nothing upstream and a flag inside the FIFO region the drain check ends in one of three ways (R152, R154). -/
theorem drainIdle_cases (word : Word) (s : State) (h : s.params.ovfOffset < s.params.fifoSize) :
    let s1 := s.latchOverflow s.flagByte
    (s1.ctl.ovfSeen = true ∧ s.isEmpty = true ∧
      drainIdle word s = .fatal (s1.terminate .bufferOverflow .bufferOverflow word)) ∨
    (s1.ctl.ovfSeen = false ∧ s.isEmpty = true ∧ drainIdle word s = .block s1) ∨
    (s.isEmpty = false ∧ drainIdle word s = .done 0 s1) := by
  have he : (s.latchOverflow s.flagByte).isEmpty = s.isEmpty := by simp [State.isEmpty]
  simp only [drainIdle, fifoRead, if_pos h]
  change _ ∨ _ ∨ _
  rw [show Memory.byte .fifo s.ext.fifo s.params.ovfOffset = s.flagByte from rfl, he]
  cases hs : (s.latchOverflow s.flagByte).ctl.ovfSeen <;> cases hm : s.isEmpty <;> simp

theorem State.examine_expected (s : State) (b : Byte) : (s.examine b).val.expected = b + 1 := by
  simp only [State.examine, State.markThroughput_val, State.resync_val]

theorem State.examine_bytesProcessed (s : State) (b : Byte) :
    (s.examine b).val.bytesProcessed = s.val.bytesProcessed + 1 := by
  simp only [State.examine, State.markThroughput_val, State.resync_val]
  split <;> simp

theorem State.examine_win (s : State) (b : Byte) :
    (s.examine b).val.win = pushWindow s.params.winLen s.val.win b := by
  simp only [State.examine, State.markThroughput_val, State.resync_val]
  split <;> simp

theorem State.examine_winCount (s : State) (b : Byte) :
    (s.examine b).val.winCount = pushCount s.params.winLen s.val.winCount := by
  simp only [State.examine, State.markThroughput_val, State.resync_val]
  split <;> simp

/-- A matching byte leaves the capture as it was (R171). -/
theorem State.examine_diag_match (s : State) (b : Byte) (h : b = s.val.expected) : (s.examine b).diag = s.diag := by
  unfold State.examine
  dsimp only
  split
  · simp
  · next hn => exact absurd h hn

theorem foldl_examine_bytesProcessed (bs : List Byte) (s : State) :
    (bs.foldl State.examine s).val.bytesProcessed = s.val.bytesProcessed + BitVec.ofNat 64 bs.length := by
  induction bs generalizing s with
  | nil => simp
  | cons b bs ih =>
    rw [List.foldl_cons, ih, State.examine_bytesProcessed, List.length_cons, BitVec.add_assoc, Nat.add_comm bs.length 1,
      BitVec.ofNat_add]
    rfl

theorem foldl_examine_params (bs : List Byte) (s : State) : (bs.foldl State.examine s).params = s.params := by
  induction bs generalizing s with
  | nil => rfl
  | cons b bs ih => rw [List.foldl_cons, ih]; simp

theorem foldl_examine_win (bs : List Byte) (s : State) :
    (bs.foldl State.examine s).val.win = bs.foldl (pushWindow s.params.winLen) s.val.win := by
  induction bs generalizing s with
  | nil => rfl
  | cons b bs ih =>
    have hp : (s.examine b).params = s.params := foldl_examine_params [b] s
    rw [List.foldl_cons, List.foldl_cons, ih, State.examine_win, hp]

@[simp] theorem State.examinedAll_params (s : State) : s.examinedAll.params = s.params := rfl
@[simp] theorem State.examinedAll_ring (s : State) : s.examinedAll.ring = s.flushedRing s.ring.used.toNat := rfl
@[simp] theorem State.examinedAll_diag (s : State) : s.examinedAll.diag = s.diag := rfl
@[simp] theorem State.examinedAll_ctl (s : State) : s.examinedAll.ctl = { s.ctl with mismatch := false } := rfl
@[simp] theorem State.examinedAll_regs (s : State) : s.examinedAll.regs = s.regs := rfl
@[simp] theorem State.examinedTo_params (s : State) (m : Nat) (b : Byte) : (s.examinedTo m b).params = s.params := rfl
@[simp] theorem State.examinedTo_ring (s : State) (m : Nat) (b : Byte) :
    (s.examinedTo m b).ring = s.flushedRing (m + 1) := rfl
@[simp] theorem State.examinedTo_val (s : State) (m : Nat) (b : Byte) :
    (s.examinedTo m b).val = s.examinedVal (s.contents.take (m + 1)) (b + 1) := rfl
@[simp] theorem State.examinedTo_ctl (s : State) (m : Nat) (b : Byte) :
    (s.examinedTo m b).ctl = { s.ctl with mismatch := true } := rfl
@[simp] theorem State.examinedTo_regs (s : State) (m : Nat) (b : Byte) : (s.examinedTo m b).regs = s.regs := rfl

/-- A flush by the host is one CMD write, of the whole length or of the largest one with the rest left pending (R91). -/
theorem hostFlush_cases (n : Word) (rest : List HostAction) (s : State) :
    (n.toNat < 2 ^ 24 ∧ hostFlush n rest s = issue (encode (.rbFlush n)) (s.setProg rest)) ∨
    (2 ^ 24 ≤ n.toNat ∧ hostFlush n rest s = issue (encode (.rbFlush maxLen)) (s.setProg (.flush (n - maxLen) :: rest))) := by
  have hm : maxLen.toNat = 2 ^ 24 - 1 := by decide
  unfold hostFlush
  by_cases h : n ≤ maxLen
  · exact .inl ⟨by have := BitVec.le_def.mp h; omega, if_pos h⟩
  · exact .inr ⟨by have := BitVec.lt_def.mp (BitVec.not_le.mp h); omega, if_neg h⟩

/-- The bytes of STORE from an index on. -/
def State.storeBytes (s : State) (i n : Nat) : List Byte :=
  (List.range n).map fun k => Memory.byte .store s.ring.store (i + k)

theorem State.storeBytes_succ (s : State) (i n : Nat) :
    s.storeBytes i (n + 1) = Memory.byte .store s.ring.store i :: s.storeBytes (i + 1) n := by
  simp only [State.storeBytes, List.range_succ_eq_map, List.map_cons, List.map_map, Nat.add_zero]
  congr 1
  apply List.map_congr_left
  intro k _
  simp [Nat.add_assoc, Nat.add_comm 1 k]

theorem examinedLen_le (e : Byte) (bs : List Byte) : examinedLen e bs ≤ bs.length := by
  unfold examinedLen; split <;> omega

/-- A span inside the store is examined up to and with its first mismatch, byte by byte (R170 to R174). -/
theorem examineSpan_ok (n i k : Nat) (s : State) (h : i + n ≤ s.params.cap) :
    examineSpan n i k s =
      .ok (k + examinedLen s.val.expected (s.storeBytes i n),
        decide (matchLen s.val.expected (s.storeBytes i n) < n),
        ((s.storeBytes i n).take (examinedLen s.val.expected (s.storeBytes i n))).foldl State.examine s) := by
  induction n generalizing i k s with
  | zero => simp [examineSpan, State.storeBytes, examinedLen, matchLen]
  | succ n ih =>
    have hi : i < s.params.cap := by omega
    have hlen : (s.storeBytes (i + 1) n).length = n := by simp [State.storeBytes]
    rw [State.storeBytes_succ]
    simp only [examineSpan, storeRead, if_pos hi]
    generalize Memory.byte .store s.ring.store i = b
    by_cases hb : b = s.val.expected
    · have hs : (s.examine b).storeBytes (i + 1) n = s.storeBytes (i + 1) n := by simp [State.storeBytes]
      rw [if_pos hb, ih (i + 1) (k + 1) (s.examine b) (by simp; omega), hs, State.examine_expected]
      subst hb
      simp only [examinedLen, matchLen, if_pos, List.length_cons, hlen, Nat.add_lt_add_iff_right]
      split <;> simp only [List.take_succ_cons, List.foldl_cons, Nat.add_assoc, Nat.add_comm 1]
    · rw [if_neg hb]
      simp [examinedLen, matchLen, hb]

end Sys2Proof.Machine
end

