-- ==== Sys2Proof/Laws/PerInstr.lean ====
section
/-! SUPPORT. Statements made per command: the opcode field of its word. -/

namespace Sys2Proof.Laws

/-- The OPC field of a command's word is its opcode (R90, R93, R97). -/
def OpcodeField.Statement (i : Instr) : Prop := opcField (encode i) = i.opcode

/-- The OPC field of a word written as opcode and length is the opcode. -/
theorem opcField_append (o : BitVec 8) (l : BitVec 24) : opcField (o ++ l) = o := by
  apply BitVec.eq_of_getLsbD_eq
  intro k hk
  rw [opcField, BitVec.getLsbD_extractLsb', BitVec.getLsbD_append]
  simp [hk]

theorem OpcodeField.rbInit : OpcodeField.Statement .rbInit := opcField_append _ _

theorem OpcodeField.rbWrite (len : Word) : OpcodeField.Statement (.rbWrite len) := opcField_append _ _

theorem OpcodeField.rbRead (len : Word) : OpcodeField.Statement (.rbRead len) := opcField_append _ _

theorem OpcodeField.rbFlush (len : Word) : OpcodeField.Statement (.rbFlush len) := opcField_append _ _

theorem OpcodeField.rbSpan : OpcodeField.Statement .rbSpan := opcField_append _ _

theorem OpcodeField.rbClear : OpcodeField.Statement .rbClear := opcField_append _ _

theorem OpcodeField.rbCap : OpcodeField.Statement .rbCap := opcField_append _ _

theorem OpcodeField.rbUsed : OpcodeField.Statement .rbUsed := opcField_append _ _

theorem OpcodeField.rbFree : OpcodeField.Statement .rbFree := opcField_append _ _

theorem OpcodeField.rbEmpty : OpcodeField.Statement .rbEmpty := opcField_append _ _

theorem OpcodeField.rbFull : OpcodeField.Statement .rbFull := opcField_append _ _

theorem OpcodeField.fcDrain : OpcodeField.Statement .fcDrain := opcField_append _ _

theorem OpcodeField.svProcess : OpcodeField.Statement .svProcess := opcField_append _ _

theorem OpcodeField.osRead : OpcodeField.Statement .osRead := opcField_append _ _

theorem OpcodeField.loopStart : OpcodeField.Statement .loopStart := opcField_append _ _

theorem OpcodeField.loopRun : OpcodeField.Statement .loopRun := opcField_append _ _

end Sys2Proof.Laws
end

