-- ==== Sys2Proof/Tests/Slice0.lean ====
section
/-! SUPPORT. The author's own tests. Expected values come from spec/30_encoding.md R99 and from the vectors of
spec/95_test_vectors.md, whose ids the docstrings name; a witness shows that the hypotheses of an obligation can be met. -/

namespace Sys2Proof.Machine.Tests

open Sys2Proof Sys2Proof.Machine

/-! ### Helpers -/

/-- A ring state of CAP = 8 after RB.INIT (the conventions of 95_test_vectors.md). -/
def demo (head used : Word) (store : Memory) : State :=
  { State.reset with ring := { State.reset.ring with store := store, head := head, used := used, initDone := true } }

/-- What the next state of an outcome shows. -/
def shows {α : Type} (o : Out) (f : State → α) : Option α :=
  match o with
  | .next t => some (f t)
  | .fault _ => none
  | .refused _ => none

/-- The outcome is a next state that passes a check. -/
def nextSat (o : Out) (p : State → Bool) : Bool :=
  match o with
  | .next t => p t
  | .fault _ => false
  | .refused _ => false

theorem exists_of_nextSat {o : Out} {p : State → Bool} (h : nextSat o p = true) : ∃ t, o = .next t ∧ p t = true := by
  cases o with
  | next t => exact ⟨t, rfl, h⟩
  | fault f => exact absurd h (by simp [nextSat])
  | refused r => exact absurd h (by simp [nextSat])

theorem exists_next {o : Out} (h : nextSat o (fun _ => true) = true) : ∃ t, o = .next t :=
  let ⟨t, ht, _⟩ := exists_of_nextSat h
  ⟨t, ht⟩

/-- The state after a list of commands, each issued by a CMD write. -/
def after (s : State) : List Word → Out
  | [] => .next s
  | w :: ws =>
    match issue w s with
    | .next t => after t ws
    | o => o

/-! ### WellFormed: each check refuses an ill-formed term -/

theorem test_wf_write_too_long : (Instr.rbWrite 0x01000000).wf = false := by decide
theorem test_wf_read_too_long : (Instr.rbRead 0x01000000).wf = false := by decide
theorem test_wf_flush_too_long : (Instr.rbFlush 0x01000000).wf = false := by decide
theorem test_wf_longest : (Instr.rbFlush 0x00FFFFFF).wf = true := by decide
theorem test_params_cap_too_large : Params.ok { Params.reference with cap := 2 ^ 31 + 1 } = false := by decide
theorem test_params_no_window : Params.ok { Params.reference with winLen := 0 } = false := by decide
theorem test_params_window_too_long : Params.ok { Params.reference with winLen := 65 } = false := by decide
theorem test_params_no_fifo : Params.ok { Params.reference with fifoSize := 0, ovfOffset := 0 } = false := by decide
theorem test_params_fifo_too_large : Params.ok { Params.reference with fifoSize := 2 ^ 32 + 1 } = false := by decide
theorem test_params_flag_outside_fifo : Params.ok { Params.reference with ovfOffset := 64 } = false := by decide

/-! ### Decoding: words written out from R90, R93 and R99 -/

theorem test_decode_rbInit : decode 0b00000001_000000000000000000000000 = .ok .rbInit := by decide
theorem test_decode_rbWrite : decode 0b00000010_000000000000000000000101 = .ok (.rbWrite 5) := by decide
theorem test_decode_rbRead : decode 0b00000011_000000000000000000000011 = .ok (.rbRead 3) := by decide
theorem test_decode_rbFlush : decode 0b00000100_000000000000000000000101 = .ok (.rbFlush 5) := by decide
theorem test_decode_rbSpan : decode 0b00000101_000000000000000000000000 = .ok .rbSpan := by decide
theorem test_decode_rbClear : decode 0b00000110_000000000000000000000000 = .ok .rbClear := by decide
theorem test_decode_rbCap : decode 0b00001000_000000000000000000000000 = .ok .rbCap := by decide
theorem test_decode_rbUsed : decode 0b00001001_000000000000000000000000 = .ok .rbUsed := by decide
theorem test_decode_rbFree : decode 0b00001010_000000000000000000000000 = .ok .rbFree := by decide
theorem test_decode_rbEmpty : decode 0b00001011_000000000000000000000000 = .ok .rbEmpty := by decide
theorem test_decode_rbFull : decode 0b00001100_000000000000000000000000 = .ok .rbFull := by decide
theorem test_decode_fcDrain : decode 0b00010000_000000000000000000000000 = .ok .fcDrain := by decide
theorem test_decode_svProcess : decode 0b00011000_000000000000000000000000 = .ok .svProcess := by decide
theorem test_decode_osRead : decode 0b00100000_000000000000000000000000 = .ok .osRead := by decide
theorem test_decode_loopStart : decode 0b00110000_000000000000000000000000 = .ok .loopStart := by decide
theorem test_decode_loopRun : decode 0b00110001_000000000000000000000000 = .ok .loopRun := by decide
/-- V-EN-3, V-EN-4. -/
theorem test_decode_length_bounds :
    decode 0x02FFFFFF = .ok (.rbWrite 16777215) ∧ decode 0x04000000 = .ok (.rbFlush 0) := by decide
/-- V-EN-5 to V-EN-7. -/
theorem test_decode_illegal :
    [0x05000001, 0x00000000, 0x07000000, 0x0D000000, 0x11000000, 0x19000000, 0x21000000, 0x32000000, 0xFF000000].map
      (fun w => decodeTableWord 32 w) = List.replicate 9 none := by decide
theorem test_decode_table_word :
    decodeTableWord 32 0x02000005 = some (.rbWrite 5) ∧ decodeTableWord 32 0x31000000 = some .loopRun := by decide
theorem test_encode_rbWrite : encode (.rbWrite 5) = 0x02000005 := by decide

/-! ### The commands, one step each -/

/-- V-RB-1. -/
theorem test_init : shows (exec .rbInit State.reset) (fun t => (t.statusWord, t.regs.result)) = some (0x00000009, 0) := by decide
/-- V-RB-2. -/
theorem test_init_no_store :
    shows (exec .rbInit (State.powerOn { Params.reference with storePresent := false })) State.statusWord = some 0x00133208 := by
  decide

/-- V-RB-5: the insertion wraps. -/
def writeDemo : State :=
  { demo 7 0 [] with ext.hostMem := [(0x100, 1), (0x101, 2), (0x102, 3)], regs.arg := 0x100 }

theorem test_write_wraps :
    shows (exec (.rbWrite 3) writeDemo) (fun t => (t.ring.store, t.ring.used)) = some ([(0, 2), (1, 3), (7, 1)], 3) := by decide
/-- V-RB-20. -/
theorem test_write_passes_top :
    shows (exec (.rbWrite 3) { demo 0 0 [] with regs.arg := 0xFFFFFFFE }) State.statusWord = some 0x00173209 := by decide

/-- V-RB-6's ring: 0x0A, 0x0B, 0x0C, 0x0D from index 6 on. -/
def wrapStore : Memory := [(0, 0x0C), (1, 0x0D), (6, 0x0A), (7, 0x0B)]

/-- V-RB-6. -/
theorem test_read_wraps :
    shows (exec (.rbRead 4) (demo 6 4 wrapStore)) (fun t => (t.ext.hostMem, t.ring.head)) =
      some ([(0, 0x0A), (1, 0x0B), (2, 0x0C), (3, 0x0D)], 2) := by decide
/-- V-RB-8. -/
theorem test_read_empty_at_top :
    shows (exec (.rbRead 5) { demo 0 0 [] with regs.arg := 0xFFFFFFFF }) (fun t => t.regs.result) = some 0 := by decide
/-- V-RB-9. -/
theorem test_flush_more_than_used :
    shows (exec (.rbFlush 9) (demo 2 3 [(2, 1), (3, 2), (4, 3)])) (fun t => (t.ring.head, t.ring.used)) = some (5, 0) := by decide
/-- V-RB-11. -/
theorem test_flush_exceeds_span :
    shows (after (demo 0 3 [(0, 1), (1, 2), (2, 3)]) [0x05000000, 0x04000004]) State.statusWord = some 0x00163241 := by decide
/-- V-RB-12. -/
theorem test_span_stops_at_top :
    shows (exec .rbSpan (demo 6 4 wrapStore)) (fun t => (t.ring.spanOff, t.ring.spanLen)) = some (6, 2) := by decide
/-- V-RB-16. -/
theorem test_clear_keeps_store :
    shows (exec .rbClear (demo 5 2 [(5, 1), (6, 2)])) (fun t => (t.ring.store, t.ring.head, t.ring.used)) =
      some ([(5, 1), (6, 2)], 0, 0) := by decide
/-- V-RB-15. -/
theorem test_clear_with_span :
    shows (after (demo 0 2 [(0, 1), (1, 2)]) [0x05000000, 0x06000000]) State.statusWord = some 0x00153241 := by decide
/-- V-RB-24. -/
theorem test_cap_before_init : shows (exec .rbCap State.reset) (fun t => t.regs.result) = some 8 := by decide
/-- V-RB-19. -/
theorem test_used : shows (exec .rbUsed (demo 0 2 [])) (fun t => t.regs.result) = some 2 := by decide
theorem test_free : shows (exec .rbFree (demo 0 2 [])) (fun t => t.regs.result) = some 6 := by decide
theorem test_empty_no : shows (exec .rbEmpty (demo 0 2 [])) (fun t => t.regs.result) = some 0 := by decide
theorem test_full_no : shows (exec .rbFull (demo 0 2 [])) (fun t => t.regs.result) = some 0 := by decide
/-- V-RB-18: CAP = 0 is empty and full at once. -/
theorem test_zero_cap :
    shows (after (State.powerOn { Params.reference with cap := 0, storePresent := false })
      [0x01000000, 0x02000005, 0x05000000, 0x04000000]) State.statusWord = some 0x00000019 := by decide

/-- V-FC-2's block: CAP = 4, one byte held, six upstream. -/
def drainDemo : State :=
  { State.powerOn { Params.reference with cap := 4 } with
    ring := { State.reset.ring with store := [(0, 9)], used := 1, initDone := true }
    ext := { External.initial with fifo := [(0, 1), (1, 2), (2, 3), (3, 4), (4, 5), (5, 6)], upLen := 6 } }

theorem test_drain_partial :
    shows (exec .fcDrain drainDemo) (fun t => (t.ring.store, t.ext.upLog, t.regs.result)) =
      some ([(0, 9), (1, 1), (2, 2), (3, 3)], [.getContiguous, .remove 3], 3) := by decide
/-- V-FC-8. -/
theorem test_drain_bad_run :
    shows (exec .fcDrain { demo 0 0 [] with ext.upPtr := 60, ext.upLen := 5 }) State.statusWord = some 0x00183209 := by decide

/-- V-SV-4's block. -/
def processDemo : State := { demo 0 2 [(0, 0xFF), (1, 0)] with val.expected := 0x10 }

theorem test_process_mismatch :
    shows (exec .svProcess processDemo) (fun t => (t.statusWord, t.ext.log)) =
      some (0x00000101, [.mismatch 0x10 0xFF 0 2 8 1 [0xFF, 0, 0, 0]]) := by decide
/-- V-SV-7: two internal spans. -/
theorem test_process_wraps :
    shows (exec .svProcess
      { drainDemo with ring := { State.reset.ring with store := [(0, 2), (1, 3), (2, 0), (3, 1)], head := 2, used := 4, initDone := true } })
      (fun t => (t.regs.result, t.ring.head, t.val.expected)) = some (4, 2, 4) := by decide
/-- R190. -/
theorem test_os_read :
    shows (exec .osRead { State.reset with ext.fifo := [(63, 0xA5)] }) (fun t => t.regs.result) = some 0x000000A5 := by decide
/-- R200. -/
theorem test_loop_start :
    shows (exec .loopStart State.reset) (fun t => (t.ctl.started, t.ext.log)) = some (true, [.running]) := by decide
theorem test_loop_start_twice :
    shows (after State.reset [0x30000000, 0x30000000]) (fun t => t.ctl.cause) = some .restart := by decide
/-- P4, line 2. -/
theorem test_loop_run : shows (after State.reset [0x01000000, 0x31000000]) State.statusWord = some 0x0000008B := by decide
/-- V-EX-1. -/
theorem test_illegal_before_init : shows (issue 0x07000000 State.reset) (fun t => t.ctl.cause) = some .illegalCommand := by decide
/-- V-RS-1. -/
theorem test_reset_status : State.reset.statusWord = 0x00000008 ∧ State.reset.regs.watermark = 8 := by decide
theorem test_place_word : shows (step (State.reset.withFetchWord 32 0x01000000)) State.statusWord = some 0x00000009 := by decide

/-- R91: a flush longer than LEN is split into several commands, the rest left pending. -/
theorem test_flush_split :
    shows (hostMove { demo 0 2 [] with ext.hostData := 0x01000001, ext.prog := [.flushRead, .waitIdle] })
      (fun t => (t.regs.result, t.ext.prog)) = some (2, [.flush 2, .waitIdle]) := by decide
/-- R81 (a): a WATERMARK written while LOOP.RUN runs does not reach its drain steps. -/
theorem test_loop_takes_watermark_at_issue :
    shows (after { demo 0 3 [] with ext.fifo := [(0, 7)], ext.upLen := 1 } [0x31000000]) (fun t =>
      shows (coreMove (writeReg t .watermark 0)) (fun u => (u.regs.watermark, u.ring.used))) = some (some (0, 4)) := by decide

/-! ### The command notation (R97, R98) -/

theorem test_line_write : parseLine "rb.write 5 ; five bytes".toList = some (.command (.rbWrite 5)) := by decide
theorem test_line_set : parseLine "set ARG, 0x1000".toList = some (.set .arg 0x1000) := by decide
theorem test_line_too_long : parseLine "rb.write 16777216".toList = none := by decide
theorem test_line_window_bounds :
    parseLine "read WIN[63]".toList = some (.read (.win 63)) ∧ parseLine "read WIN[64]".toList = none ∧
      parseLine "read DIAG_WIN[64]".toList = none := by decide
theorem test_line_readto : parseLine "rb.readto 0x3000, 3".toList = some (.readTo 0x3000 3) := by decide

/-! ### Witnesses: states that meet the hypotheses of the obligations, all together -/

/-- Ready, wrapped around the top (`head` 6, `used` 4 of 8), ARG two bytes below the top of host memory. -/
def wReady : State := { demo 6 4 wrapStore with regs.arg := 0xFFFFFFFE }

/-- The same with its span of two bytes outstanding. -/
def wSpan : State := { wReady with ring.spanOut := true, ring.spanOff := 6, ring.spanLen := 2 }

/-- Ready and empty. -/
def wEmpty : State := demo 5 0 []

/-- Ready and full. -/
def wFull : State := demo 0 8 [(0, 0), (1, 1), (2, 2), (3, 9), (4, 4), (5, 5), (6, 6), (7, 7)]

/-- A host-issued drain in `Wait()`, with the given pending notification and turns. -/
def wWait (pend : Bool) (turns : List Turn) : State :=
  { wEmpty with ctl.phase := .drainWait, ctl.notifyPend := pend, ext.turns := turns }

/-- LOOP.RUN in one of its phases over a given ring. -/
def wLoop (p : Phase) (s : State) : State := { s with ctl.phase := p, ctl.started := true, ctl.loopWatermark := 8 }

/-- A block in TERMINATED after SPAN_HAZARD, with the given turns. -/
def wTerminated (turns : List Turn) : State :=
  { State.raiseFault wSpan .spanHazard 0x02000001 with ext.turns := turns }

/-- CAP = 0, initialised. -/
def wZero : State :=
  { State.powerOn { Params.reference with cap := 0, storePresent := false } with ring := { State.reset.ring with initDone := true } }

/-- A state with a run of the producer. -/
def withRun (s : State) (ptr len : Nat) : State := { s with ext.upPtr := ptr, ext.upLen := len }

/-- A state with the overflow flag set. -/
def withFlag (s : State) (b : Byte) : State := { s with ext.fifo := [(63, b)] }

/-- A state with WATERMARK, and LOOP.RUN's copy of it, at a value. -/
def withWatermark (s : State) (v : Word) : State := { s with regs.watermark := v, ctl.loopWatermark := v }

/-- Windows with given entries. -/
theorem window_reset : windowOk 4 [0, 0, 0, 0] 0 := by unfold windowOk; decide

theorem inv_wReady : wReady.Inv := by constructor <;> first | exact window_reset | decide
theorem inv_wSpan : wSpan.Inv := by constructor <;> first | exact window_reset | decide
theorem inv_wEmpty : wEmpty.Inv := by constructor <;> first | exact window_reset | decide
theorem inv_wFull : wFull.Inv := by constructor <;> first | exact window_reset | decide
theorem inv_wZero : wZero.Inv := by constructor <;> first | exact window_reset | decide
theorem inv_wWait : (wWait true []).Inv := by constructor <;> first | exact window_reset | decide
theorem inv_wTerminated : (wTerminated []).Inv := by constructor <;> first | exact window_reset | decide
theorem inv_reset : State.reset.Inv := by constructor <;> first | exact window_reset | decide
theorem inv_wLoopDrain : (wLoop .runDrain wReady).Inv := by constructor <;> first | exact window_reset | decide
theorem inv_wLoopProcess : (wLoop .runProcess wFull).Inv := by constructor <;> first | exact window_reset | decide

theorem witness_DecodeOfEncode : (Instr.rbWrite 16777215).wf = true ∧ Instr.loopRun.wf = true := by decide

theorem witness_EncodeOfDecode : decode 0x02FFFFFF = .ok (.rbWrite 16777215) := by decide

theorem witness_IllegalWordsFault :
    (∃ e, decode 0x05000001 = .error e) ∧ (∃ e, decode 0x07000000 = .error e) ∧ State.reset.Idle :=
  ⟨⟨.nonzeroLength 5 1, by decide⟩, ⟨.unassignedOpcode 7, by decide⟩, rfl⟩

theorem witness_StepRunsCommandWritten :
    ∃ s : State, s.ext.prog = .writeReg .b32 0x000 0x02000005 :: [.waitIdle] ∧ currentTurn s = .host ∧
      decode 0x02000005 = .ok (.rbWrite 5) :=
  ⟨{ wReady with ext.prog := [.writeReg .b32 0 0x02000005, .waitIdle] }, by decide, by decide, by decide⟩

theorem witness_PlacedWordRunsNext : decodeTableWord 32 0x04FFFFFF = some (.rbFlush 16777215) := by decide

theorem witness_PowerOnResetRegisters :
    currentTurn { wLoop .runWait wEmpty with ctl.ovfSeen := true, ext.turns := [.powerOnReset] } = .powerOnReset := by decide

theorem witness_PowerUpStoreIsFree : 0 < Params.reference.cap ∧ 7 < Params.reference.cap := by decide

theorem witness_ResetHasInvariant :
    Params.ok ⟨0, false, 1, 1, 0, false, false⟩ = true ∧
      Params.ok ⟨2 ^ 31, true, 64, 2 ^ 32, 2 ^ 32 - 1, true, true⟩ = true := by decide

theorem witness_StepKeepsInvariant :
    (wWait true []).Inv ∧ ∃ t, step (wWait true []) = .next t ∧ (t.ctl.phase == .drainCheck) = true :=
  ⟨inv_wWait, exists_of_nextSat (by decide)⟩

theorem witness_NoAccessOutsideSpaces : wReady.Inv ∧ (wLoop .runProcess wFull).Inv := ⟨inv_wReady, inv_wLoopProcess⟩

theorem witness_StepKeepsParameters :
    ∃ t, step { wReady with ext.turns := [.powerOnReset] } = .next t ∧ (t.ring.used == 0) = true :=
  exists_of_nextSat (by decide)

/-- One state for each check of R235, in its order. -/
theorem witness_CommandChecksInOrder :
    (wTerminated []).ctl.phase = .terminated ∧
    ((wWait false []).ctl.phase ≠ .terminated ∧ (wWait false []).isBusy = true) ∧
    (State.reset.isBusy = false ∧ decodeTableWord 32 0x07000000 = none) ∧
    (decode 0x02000001 = .ok (.rbWrite 1) ∧ needsInit (.rbWrite 1) = true ∧ State.reset.ring.initDone = false) ∧
    (decode 0x01000000 = .ok .rbInit ∧ wSpan.ring.initDone = true) ∧
    (mutates (.rbWrite 1) = true ∧ isFlush (.rbWrite 1) = false ∧ wSpan.ring.spanOut = true ∧ wSpan.ring.initDone = true) ∧
    (decode 0x30000000 = .ok .loopStart ∧ (wLoop .idle wReady).ctl.started = true) ∧
    (decode 0x04000002 = .ok (.rbFlush 2) ∧ violated (.rbFlush 2) wSpan = none) := by decide

theorem witness_CommandsNeedInit :
    State.reset.Idle ∧ State.reset.ring.initDone = false ∧ Instr.rbUsed ∉ [.rbInit, .rbCap, .osRead, .loopStart] ∧
      Instr.osRead ∈ [Instr.rbInit, .rbCap, .osRead, .loopStart] := ⟨rfl, by decide⟩

theorem witness_SpanDiscipline :
    wSpan.Idle ∧ wSpan.ring.initDone = true ∧ wSpan.ring.spanOut = true ∧ wSpan.ring.spanLen.toNat < (3 : Word).toNat ∧
      (2 : Word).toNat ≤ wSpan.ring.spanLen.toNat ∧ wSpan.params.ovfOffset < wSpan.params.fifoSize ∧
      wSpan.ctl.started = false := ⟨rfl, by decide⟩

theorem witness_TerminatedIsAbsorbing :
    (wTerminated [.powerOnReset]).ctl.phase = .terminated ∧ currentTurn (wTerminated [.powerOnReset]) = .powerOnReset ∧
      currentTurn (wTerminated [.host]) ≠ .powerOnReset ∧
      ∃ t, step { wTerminated [.host] with ext.prog := [.writeReg .b32 0 0x01000000] } = .next t ∧
        (t.ctl.phase == .terminated) = true := ⟨by decide, by decide, by decide, exists_of_nextSat (by decide)⟩

theorem witness_FaultsArePrecise :
    wReady.Idle ∧
    (∃ t, exec (.rbWrite 3) wReady = .next t ∧
      (t.ctl.phase == .terminated && t.ctl.outcome == .genericProcessingFailure) = true) ∧
    ∃ t, exec .fcDrain (withRun wEmpty 60 5) = .next t ∧
      (t.ctl.phase == .terminated && t.ctl.outcome == .genericProcessingFailure) = true :=
  ⟨rfl, exists_of_nextSat (by decide), exists_of_nextSat (by decide)⟩

/-- LOOP.RUN's process step over wFull, whose byte 3 mismatches, under the fatal policy. -/
def wFatalProcess : State := { wLoop .runProcess wFull with regs.config := 1, ctl.loopConfig := 1 }

theorem inv_wFatalProcess : wFatalProcess.Inv := by constructor <;> first | exact window_reset | decide

theorem witness_EveryTerminationIsLogged :
    wFatalProcess.ctl.phase ≠ .terminated ∧
    ∃ t, step wFatalProcess = .next t ∧ (t.ctl.phase == .terminated && t.ctl.outcome == .validationMismatch) = true :=
  ⟨by decide, exists_of_nextSat (by decide)⟩

theorem witness_RbInitCompletes :
    (wReady.Idle ∧ wReady.ring.initDone = true) ∧
    (let s := State.powerOn { Params.reference with cap := 1, storePresent := false }
     s.Idle ∧ s.ring.initDone = false ∧ s.ring.spanOut = false ∧ 0 < s.params.cap ∧ s.params.storePresent = false) ∧
    (let s := State.powerOn { Params.reference with cap := 0, storePresent := false }
     s.Idle ∧ s.ring.initDone = false ∧ s.ring.spanOut = false ∧ (s.params.cap = 0 ∨ s.params.storePresent = true)) ∧
    (State.reset.Idle ∧ State.reset.ring.initDone = false ∧ State.reset.ring.spanOut = false ∧
      (State.reset.params.cap = 0 ∨ State.reset.params.storePresent = true)) :=
  ⟨⟨rfl, by decide⟩, ⟨rfl, by decide⟩, ⟨rfl, by decide⟩, ⟨rfl, by decide⟩⟩

theorem ready_wReady : wReady.Ready := ⟨rfl, rfl, rfl⟩
theorem ready_wEmpty : wEmpty.Ready := ⟨rfl, rfl, rfl⟩
theorem ready_wFull : wFull.Ready := ⟨rfl, rfl, rfl⟩

/-- Three bytes pass the top of host memory, two end at it, none reach it. -/
theorem witness_RbWriteStoresAcceptedBytes :
    wReady.Inv ∧ wReady.Ready ∧
    (let n := min (3 : Word).toNat (wReady.params.cap - wReady.ring.used.toNat)
     n ≠ 0 ∧ 2 ^ 32 < wReady.regs.arg.toNat + n) ∧
    wReady.regs.arg.toNat + min (2 : Word).toNat (wReady.params.cap - wReady.ring.used.toNat) ≤ 2 ^ 32 ∧
    min (0 : Word).toNat (wReady.params.cap - wReady.ring.used.toNat) = 0 := ⟨inv_wReady, ready_wReady, by decide⟩

theorem witness_RbReadDeliversOldestBytes :
    wReady.Inv ∧ wReady.Ready ∧
    (let n := min (3 : Word).toNat wReady.ring.used.toNat
     n ≠ 0 ∧ 2 ^ 32 < wReady.regs.arg.toNat + n) ∧
    wReady.regs.arg.toNat + min (2 : Word).toNat wReady.ring.used.toNat ≤ 2 ^ 32 ∧
    min (0 : Word).toNat wReady.ring.used.toNat = 0 := ⟨inv_wReady, ready_wReady, by decide⟩

theorem witness_RbFlushDiscards :
    wSpan.Inv ∧ wSpan.Idle ∧ wSpan.ring.initDone = true ∧ wSpan.ring.spanOut = true ∧
    wSpan.ring.spanLen.toNat < (3 : Word).toNat ∧ (2 : Word).toNat ≤ wSpan.ring.spanLen.toNat ∧
    wReady.Inv ∧ wReady.Idle ∧ wReady.ring.initDone = true ∧ wReady.ring.spanOut = false :=
  ⟨inv_wSpan, rfl, rfl, rfl, by decide, by decide, inv_wReady, rfl, rfl, rfl⟩

theorem witness_RbSpanHandsOutLinearRun :
    (wReady.Inv ∧ wReady.Idle ∧ wReady.ring.initDone = true) ∧ (wZero.Inv ∧ wZero.Idle ∧ wZero.ring.initDone = true) :=
  ⟨⟨inv_wReady, rfl, rfl⟩, inv_wZero, rfl, rfl⟩

theorem witness_RbClearZeroesRing : wReady.Ready := ready_wReady

theorem witness_IntrospectionCommandsAnswer :
    (State.reset.Idle ∧ State.reset.ring.initDone = false) ∧ (wFull.Idle ∧ wFull.ring.initDone = true) :=
  ⟨⟨rfl, rfl⟩, rfl, rfl⟩

theorem witness_RingCommandsStayInTheRing :
    wReady.Inv ∧ wReady.Idle ∧
    Instr.rbWrite 2 ∈ [Instr.rbInit, .rbWrite 2, .rbRead 2, .rbFlush 2, .rbSpan, .rbClear, .rbCap, .rbUsed, .rbFree, .rbEmpty,
      .rbFull] := ⟨inv_wReady, rfl, by decide⟩

theorem witness_WriteThenReadReturnsBytes :
    wEmpty.Inv ∧ wEmpty.Ready ∧ wEmpty.ring.used = 0 ∧ (8 : Word).toNat ≤ wEmpty.params.cap ∧
      wEmpty.regs.arg.toNat + (8 : Word).toNat ≤ 2 ^ 32 ∧ (0xFFFFFFF8 : Word).toNat + (8 : Word).toNat ≤ 2 ^ 32 :=
  ⟨inv_wEmpty, ready_wEmpty, by decide⟩

theorem witness_RingIsFirstInFirstOut :
    wFatalProcess.Inv ∧ ∃ t, step wFatalProcess = .next t ∧ (t.ring.used == 4) = true :=
  ⟨inv_wFatalProcess, exists_of_nextSat (by decide)⟩

theorem witness_ZeroCapacityNeverIndexes :
    wZero.Inv ∧ wZero.params.cap = 0 ∧ (∃ t, step (wZero.withFetchWord 32 0x02000005) = .next t) ∧
      ∃ t, step { wZero with ext.turns := [.powerOnReset] } = .next t :=
  ⟨inv_wZero, by decide, exists_next (by decide), exists_next (by decide)⟩

theorem inv_watermark : (withWatermark wReady 3).Inv := by constructor <;> first | exact window_reset | decide

theorem witness_WatermarkArbiter :
    (withWatermark wReady 3).Inv ∧ (withWatermark wReady 3).Ready ∧
    (withWatermark wReady 3).regs.watermark.toNat < (withWatermark wReady 3).ring.used.toNat ∧
    (let s := withWatermark (wLoop .runDrain wReady) 3
     s.ctl.phase = .runDrain ∧ s.ctl.loopWatermark.toNat < s.ring.used.toNat) ∧
    wReady.regs.watermark.toNat = wReady.params.cap := ⟨inv_watermark, ⟨rfl, rfl, rfl⟩, by decide, by decide, by decide⟩

theorem inv_drain_ready : (withRun wReady 0 63).Inv := by constructor <;> first | exact window_reset | decide
theorem inv_drain_check : (withRun { wEmpty with ctl.phase := .drainCheck } 0 63).Inv := by
  constructor <;> first | exact window_reset | decide
theorem inv_drain_loop : (withRun (wLoop .runDrain wReady) 0 63).Inv := by
  constructor <;> first | exact window_reset | decide

/-- The run ends just before the flag byte (V-FC-10), in each of the three places a drain step runs. -/
theorem witness_DrainAdmitsRun :
    (let s := withRun wReady 0 63
     s.Inv ∧ 0 < s.ext.upLen ∧ s.ext.upPtr + s.ext.upLen ≤ s.params.fifoSize ∧
       ¬ (s.ext.upPtr ≤ s.params.ovfOffset ∧ s.params.ovfOffset < s.ext.upPtr + s.ext.upLen) ∧ s.Ready ∧
       s.ring.used.toNat ≤ s.regs.watermark.toNat) ∧
    (let s := withRun { wEmpty with ctl.phase := .drainCheck } 0 63
     s.Inv ∧ 0 < s.ext.upLen ∧ s.ext.upPtr + s.ext.upLen ≤ s.params.fifoSize ∧
       ¬ (s.ext.upPtr ≤ s.params.ovfOffset ∧ s.params.ovfOffset < s.ext.upPtr + s.ext.upLen) ∧ s.ctl.phase = .drainCheck) ∧
    (let s := withRun (wLoop .runDrain wReady) 0 63
     s.Inv ∧ 0 < s.ext.upLen ∧ s.ext.upPtr + s.ext.upLen ≤ s.params.fifoSize ∧
       ¬ (s.ext.upPtr ≤ s.params.ovfOffset ∧ s.params.ovfOffset < s.ext.upPtr + s.ext.upLen) ∧ s.ctl.phase = .runDrain ∧
       s.ring.used.toNat ≤ s.ctl.loopWatermark.toNat) :=
  ⟨⟨inv_drain_ready, by decide, by decide, by decide, ⟨rfl, rfl, rfl⟩, by decide⟩,
    ⟨inv_drain_check, by decide, by decide, by decide, by decide⟩, inv_drain_loop, by decide, by decide, by decide, by decide,
    by decide⟩

/-- One run passes the end of the region by a byte, one covers the flag byte as its last byte. -/
theorem witness_DrainRejectsBadRun :
    (let s := withRun wReady 60 5
     0 < s.ext.upLen ∧ s.params.fifoSize < s.ext.upPtr + s.ext.upLen ∧ s.Ready ∧
       s.ring.used.toNat ≤ s.regs.watermark.toNat) ∧
    (let s := withRun { wEmpty with ctl.phase := .drainCheck } 62 2
     0 < s.ext.upLen ∧ (s.ext.upPtr ≤ s.params.ovfOffset ∧ s.params.ovfOffset < s.ext.upPtr + s.ext.upLen) ∧
       s.ctl.phase = .drainCheck) ∧
    (let s := withRun (wLoop .runDrain wReady) 63 1
     0 < s.ext.upLen ∧ (s.ext.upPtr ≤ s.params.ovfOffset ∧ s.params.ovfOffset < s.ext.upPtr + s.ext.upLen) ∧
       s.ctl.phase = .runDrain ∧ s.ring.used.toNat ≤ s.ctl.loopWatermark.toNat) :=
  ⟨⟨by decide, by decide, ⟨rfl, rfl, rfl⟩, by decide⟩, by decide, by decide⟩

theorem witness_DrainWithEmptyUpstream :
    (let s := withFlag wEmpty 1
     s.Ready ∧ s.params.ovfOffset < s.params.fifoSize ∧ s.ring.used.toNat ≤ s.regs.watermark.toNat ∧ s.ext.upLen = 0 ∧
       (s.ctl.ovfSeen = true ∨ s.flagByte ≠ 0) ∧ s.ring.used = 0) ∧
    (let s := withFlag wEmpty 0
     s.Ready ∧ s.params.ovfOffset < s.params.fifoSize ∧ s.ring.used.toNat ≤ s.regs.watermark.toNat ∧ s.ext.upLen = 0 ∧
       ¬ (s.ctl.ovfSeen = true ∨ s.flagByte ≠ 0) ∧ s.ring.used = 0) ∧
    (let s := withFlag wFull 1
     s.Ready ∧ s.params.ovfOffset < s.params.fifoSize ∧ s.ring.used.toNat ≤ s.regs.watermark.toNat ∧ s.ext.upLen = 0 ∧
       s.ring.used ≠ 0) ∧
    (let s := withFlag { wEmpty with ctl.phase := .drainCheck } 1
     s.params.ovfOffset < s.params.fifoSize ∧ s.ext.upLen = 0 ∧ s.ctl.phase = .drainCheck ∧
       (s.ctl.ovfSeen = true ∨ s.flagByte ≠ 0) ∧ s.ring.used = 0) ∧
    (let s := withFlag { wEmpty with ctl.phase := .drainCheck } 0
     s.params.ovfOffset < s.params.fifoSize ∧ s.ext.upLen = 0 ∧ s.ctl.phase = .drainCheck ∧
       ¬ (s.ctl.ovfSeen = true ∨ s.flagByte ≠ 0) ∧ s.ring.used = 0) ∧
    (let s := withFlag { wFull with ctl.phase := .drainCheck } 1
     s.params.ovfOffset < s.params.fifoSize ∧ s.ext.upLen = 0 ∧ s.ctl.phase = .drainCheck ∧ s.ring.used ≠ 0) :=
  ⟨⟨⟨rfl, rfl, rfl⟩, by decide⟩, ⟨⟨rfl, rfl, rfl⟩, by decide⟩, ⟨⟨rfl, rfl, rfl⟩, by decide⟩, by decide, by decide, by decide⟩

theorem witness_LoopDrainWithEmptyUpstream :
    (let s := withFlag (wLoop .runDrain wEmpty) 1
     s.ctl.phase = .runDrain ∧ s.params.ovfOffset < s.params.fifoSize ∧ s.ring.used.toNat ≤ s.ctl.loopWatermark.toNat ∧
       s.ext.upLen = 0 ∧ (s.ctl.ovfSeen = true ∨ s.flagByte ≠ 0) ∧ s.ring.used = 0) ∧
    (let s := withFlag (wLoop .runDrain wEmpty) 0
     s.ctl.phase = .runDrain ∧ s.params.ovfOffset < s.params.fifoSize ∧ s.ring.used.toNat ≤ s.ctl.loopWatermark.toNat ∧
       s.ext.upLen = 0 ∧ ¬ (s.ctl.ovfSeen = true ∨ s.flagByte ≠ 0) ∧ s.ring.used = 0) ∧
    (let s := withFlag (wLoop .runDrain wFull) 1
     s.ctl.phase = .runDrain ∧ s.params.ovfOffset < s.params.fifoSize ∧ s.ring.used.toNat ≤ s.ctl.loopWatermark.toNat ∧
       s.ext.upLen = 0 ∧ s.ring.used ≠ 0) := by decide

theorem witness_OverflowLatchHolds :
    (let s := withFlag (wLoop .runDrain wFull) 1
     currentTurn s ≠ .powerOnReset ∧ s.ctl.ovfSeen = false ∧ ∃ t, step s = .next t ∧ t.ctl.ovfSeen = true) ∧
    (let s := { withFlag (wLoop .runDrain wFull) 1 with ctl.ovfSeen := true }
     currentTurn s ≠ .powerOnReset ∧ s.ctl.ovfSeen = true ∧ ∃ t, step s = .next t) :=
  ⟨⟨by decide, by decide, exists_of_nextSat (by decide)⟩, by decide, by decide, exists_next (by decide)⟩

theorem witness_WaitAndWake :
    ((wWait true []).isWaiting = true ∧ (wWait true []).ctl.notifyPend = true) ∧
    ((wLoop .runWait wEmpty).isWaiting = true ∧ (wLoop .runWait wEmpty).ctl.notifyPend = false) := by decide

theorem witness_NotifyInputSetsPending :
    (wWait true [.core]).ctl.notifyPend = true ∧
    (∃ t, step (wWait true [.core]) = .next t ∧ (!t.ctl.notifyPend) = true) ∧
    ∃ t, step (wWait true [.powerOnReset]) = .next t ∧ (!t.ctl.notifyPend) = true :=
  ⟨rfl, exists_of_nextSat (by decide), exists_of_nextSat (by decide)⟩

/-- LOOP.RUN waiting while the producer is about to set the flag and notify. -/
def wWaitStart : State :=
  { wLoop .runWait wEmpty with ext.turns := [.producer (.writeFifo 63 1), .producer .notify] }

/-- Where a step leads; a machine that stops stays. -/
def stepOn (s : State) : State :=
  match step s with
  | .next t => t
  | .fault _ => s
  | .refused _ => s

/-- The run from a state. -/
def runFrom (s : State) : Nat → State
  | 0 => s
  | n + 1 => stepOn (runFrom s n)

/-- The run of `wWaitStart` is settled after the flag, the notification, the wake and the drain check. -/
theorem runFrom_wWaitStart_settled (n : Nat) : runFrom wWaitStart (n + 4) = runFrom wWaitStart 4 := by
  induction n with
  | zero => rfl
  | succ n ih => rw [show n + 1 + 4 = (n + 4) + 1 from rfl, runFrom, ih]; decide

theorem next_stepOn {s : State} (h : nextSat (step s) (fun _ => true) = true) : step s = .next (stepOn s) := by
  obtain ⟨t, ht⟩ := exists_next h
  simp [stepOn, ht]

theorem witness_WaitEndsUnderProducerProgress :
    IsRun (runFrom wWaitStart) ∧ ProducerProgress (runFrom wWaitStart) ∧ (runFrom wWaitStart 0).isWaiting = true := by
  refine ⟨?_, ?_, by decide⟩
  · intro n
    apply next_stepOn
    rcases n with _ | _ | _ | _ | n
    · decide
    · decide
    · decide
    · decide
    · rw [show n + 1 + 1 + 1 + 1 = n + 4 from rfl, runFrom_wWaitStart_settled]; decide
  · intro n
    refine ⟨n + 4, by omega, fun h => ?_⟩
    rw [runFrom_wWaitStart_settled] at h
    exact absurd h (by decide)

/-- The run above does wait with data due and a notification pending at one point, so the premise is not empty there. -/
theorem witness_ProducerProgress_at_wait :
    (runFrom wWaitStart 2).isWaiting = true ∧ (runFrom wWaitStart 2).flagByte ≠ 0 ∧
      (runFrom wWaitStart 2).ctl.notifyPend = true := by decide

theorem witness_OsReadReturnsFlag : State.reset.Idle ∧ State.reset.params.ovfOffset < State.reset.params.fifoSize :=
  ⟨rfl, by decide⟩

theorem witness_ExamineOneByte :
    wReady.Inv ∧ (0 : Byte) = wReady.val.expected ∧ (1 : Byte) ≠ wReady.val.expected ∧ 0 < 3 ∧ 3 < wReady.params.winLen :=
  ⟨inv_wReady, by decide⟩

/-- Data that matches across the wrap (V-SV-7's shape). -/
def wMatch : State := demo 6 4 [(0, 2), (1, 3), (6, 0), (7, 1)]

theorem inv_wMatch : wMatch.Inv := by constructor <;> first | exact window_reset | decide

theorem witness_ProcessExaminesMatchingData :
    wMatch.Inv ∧ wMatch.Ready ∧ matchLen wMatch.val.expected wMatch.contents = wMatch.ring.used.toNat :=
  ⟨inv_wMatch, ⟨rfl, rfl, rfl⟩, by decide⟩

/-- A mismatch in the second span, and with the fatal policy. -/
def wLate : State := { demo 6 4 [(0, 9), (1, 3), (6, 0), (7, 1)] with regs.config := 1 }

theorem inv_wLate : wLate.Inv := by constructor <;> first | exact window_reset | decide

theorem witness_ProcessStopsAtMismatch :
    (wFull.Inv ∧ wFull.Ready ∧ matchLen wFull.val.expected wFull.contents = 3 ∧ wFull.contents[3]? = some 9 ∧
      wFull.ring.head.toNat + 3 < wFull.params.cap ∧ wFull.regs.config.getLsbD 0 = false) ∧
    (wLate.Inv ∧ wLate.Ready ∧ matchLen wLate.val.expected wLate.contents = 2 ∧ wLate.contents[2]? = some 9 ∧
      ¬ wLate.ring.head.toNat + 2 < wLate.params.cap ∧ wLate.regs.config.getLsbD 0 = true) :=
  ⟨⟨inv_wFull, ready_wFull, by decide⟩, inv_wLate, ⟨rfl, rfl, rfl⟩, by decide⟩

theorem inv_wLoopMatch : (wLoop .runProcess wMatch).Inv := by constructor <;> first | exact window_reset | decide

/-- Data that matches, a mismatch under the non-fatal policy, and one under the fatal policy. -/
theorem witness_LoopProcessStep :
    (let s := wLoop .runProcess wMatch
     s.Inv ∧ s.ctl.phase = .runProcess ∧ matchLen s.val.expected s.contents = s.ring.used.toNat) ∧
    (let s := wLoop .runProcess wFull
     s.Inv ∧ s.ctl.phase = .runProcess ∧ matchLen s.val.expected s.contents = 3 ∧ s.contents[3]? = some 9 ∧
       s.ctl.loopConfig.getLsbD 0 = false) ∧
    (wFatalProcess.Inv ∧ wFatalProcess.ctl.phase = .runProcess ∧ matchLen wFatalProcess.val.expected wFatalProcess.contents = 3 ∧
      wFatalProcess.contents[3]? = some 9 ∧ wFatalProcess.ctl.loopConfig.getLsbD 0 = true) :=
  ⟨⟨inv_wLoopMatch, by decide⟩, ⟨inv_wLoopProcess, by decide⟩, inv_wFatalProcess, by decide⟩

theorem witness_ValidatorWrittenByProcessOnly : Instr.fcDrain ≠ .svProcess ∧ ∃ t, exec .fcDrain drainDemo = .next t :=
  ⟨by decide, exists_next (by decide)⟩

theorem witness_LoopStartMarksOnce :
    (State.reset.Idle ∧ State.reset.ctl.started = false) ∧ ((wLoop .idle wReady).Idle ∧ (wLoop .idle wReady).ctl.started = true) :=
  ⟨⟨rfl, rfl⟩, rfl, rfl⟩

theorem witness_LoopRunEntersLoop : wReady.Ready ∧ (wLoop .idle wReady).Ready := ⟨ready_wReady, rfl, rfl, rfl⟩

theorem witness_LoopNeverCompletes :
    wFatalProcess.ctl.phase.looping = true ∧ ∃ t, coreMove wFatalProcess = .next t := ⟨by decide, exists_next (by decide)⟩

theorem witness_RunningMarkerOncePerPowerOn :
    (∃ t, step (State.reset.withFetchWord 32 0x30000000) = .next t ∧ t.ctl.started = true) ∧
    currentTurn (State.reset.withFetchWord 32 0x30000000) ≠ .powerOnReset ∧
    (∃ t, step (wLoop .runProcess wFull) = .next t) ∧ currentTurn (wLoop .runProcess wFull) ≠ .powerOnReset :=
  ⟨exists_of_nextSat (by decide), by decide, exists_next (by decide), by decide⟩

theorem witness_LogIsAppendOnly : ∃ t, step wFatalProcess = .next t ∧ (t.ext.log.length == 2) = true :=
  exists_of_nextSat (by decide)

theorem witness_OnlyDrainAndLoopStayBusy :
    Instr.svProcess ≠ .fcDrain ∧ Instr.svProcess ≠ .loopRun ∧ wReady.Idle ∧ ∃ t, exec .svProcess wReady = .next t :=
  ⟨by decide, by decide, rfl, exists_next (by decide)⟩

theorem witness_RegisterMapReads :
    Params.reference.ok = true ∧ 3 < Params.reference.winLen ∧ regAt Params.reference 0x058 ≠ none ∧
      regAt Params.reference 0x10C ≠ none ∧ regAt Params.reference 0x20C ≠ none ∧ regAt Params.reference 0x110 = none := by decide

theorem witness_RegisterAccessRules :
    AccessSize.b8 ≠ .b32 ∧ 0x00E % 4 ≠ 0 ∧ regAt State.reset.params 0x05C = none ∧
      regAt State.reset.params 0x008 = some .result ∧ HostReg.result ∉ [HostReg.cmd, .arg, .config, .watermark] := by decide

theorem witness_WritableRegistersHoldLegalValues : State.reset.params.ok = true := by decide

theorem witness_StoreWindowIsReadOnly :
    (7 < wReady.params.cap ∧ wReady.params.cap ≤ 8 ∧ AccessSize.b32 ≠ .b8) ∧
    wReady.Inv ∧ 3 < wReady.ring.used.toNat ∧ 1 = wReady.ringIndex 3 ∧
    ∃ s : State, s.ext.prog = [.writeWindow .b8 1 0] :=
  ⟨by decide, inv_wReady, by decide, by decide, { wReady with ext.prog := [.writeWindow .b8 1 0] }, rfl⟩

theorem witness_ProducerMovesStayOutside :
    (∃ t, producerMove (.writeFifo 63 1) wReady = .next t) ∧ (∃ t, producerMove (.publish 0 5) wReady = .next t) ∧
      ∃ t, producerMove .notify wReady = .next t :=
  ⟨exists_next (by decide), exists_next (by decide), exists_next (by decide)⟩

theorem witness_PseudoInstructionsExpand :
    ∃ s : State, s.ext.prog = [.flushRead, .waitIdle] ∧ s.ext.hostData.toNat < 2 ^ 24 ∧ s.ext.hostData.toNat = 2 ^ 24 - 1 :=
  ⟨{ wReady with ext.prog := [.flushRead, .waitIdle], ext.hostData := 0x00FFFFFF }, by decide⟩

end Sys2Proof.Machine.Tests
end

/-! PROOFS. What holds of every state an operation can answer: one predicate per result type, with its rules for the shared
operations. -/

namespace Sys2Proof.Machine

/-- `P` holds of the next state, if the outcome has one. -/
def Out.All (P : State → Prop) : Out → Prop
  | .next t => P t
  | .fault _ => True
  | .refused _ => True

/-- `P` holds of the state a drain check answers, if it answers one. -/
def DrainResult.All (P : State → Prop) : DrainResult → Prop
  | .done _ t => P t
  | .fatal t => P t
  | .block t => P t
  | .broken _ => True

/-- `P` holds of the state a process step answers, if it answers one. -/
def ProcessResult.All (P : State → Prop) : ProcessResult → Prop
  | .done _ t => P t
  | .fatal t => P t
  | .broken _ => True

section
variable {P : State → Prop} {s t : State} {body : Out}

@[simp] theorem Out.all_next : Out.All P (.next t) ↔ P t := Iff.rfl
@[simp] theorem Out.all_fault (f : Fault) : Out.All P (.fault f) := trivial
@[simp] theorem Out.all_refused (r : Refusal) : Out.All P (.refused r) := trivial

@[simp] theorem DrainResult.all_done (n : Nat) : (DrainResult.done n t).All P ↔ P t := Iff.rfl
@[simp] theorem DrainResult.all_fatal : (DrainResult.fatal t).All P ↔ P t := Iff.rfl
@[simp] theorem DrainResult.all_block : (DrainResult.block t).All P ↔ P t := Iff.rfl
@[simp] theorem DrainResult.all_broken (f : Fault) : (DrainResult.broken f).All P := trivial

@[simp] theorem ProcessResult.all_done (n : Nat) : (ProcessResult.done n t).All P ↔ P t := Iff.rfl
@[simp] theorem ProcessResult.all_fatal : (ProcessResult.fatal t).All P ↔ P t := Iff.rfl
@[simp] theorem ProcessResult.all_broken (f : Fault) : (ProcessResult.broken f).All P := trivial

theorem Out.all_iff {o : Out} : Out.All P o ↔ ∀ t, o = .next t → P t := by
  cases o <;> simp

/-- Checks 1 and 2 of R235 answer the state itself, a fault of it, or what the body answers. -/
theorem acceptCmd_all (w : Word) (hs : P s) (hf : ∀ c, P (s.raiseFault c w)) (hb : Out.All P body) :
    Out.All P (acceptCmd w s body) := by
  rcases s.phase_cases with hi | ⟨hbusy, -⟩ | ⟨ht, -⟩
  · rwa [acceptCmd_idle w body hi]
  · rw [acceptCmd_busy w body hbusy]; exact hf _
  · rw [acceptCmd_terminated w body ht]; exact hs

/-- The common checks of R235 answer the state itself, a fault of it, or what the body answers. -/
theorem commonChecks_all (i : Instr) (hs : P s) (hf : ∀ c, P (s.raiseFault c (encode i))) (hb : Out.All P body) :
    Out.All P (commonChecks i s body) := by
  refine acceptCmd_all (encode i) hs hf ?_
  split
  · exact hf _
  · exact hb

end

/-- A run of store writes that answers has written its bytes to STORE and nothing else. -/
theorem eq_of_writeRun_storeWrite {s t : State} {i : Nat} {bs : List Byte} (h : writeRun storeWrite s i bs = .ok t) :
    t = { s with ring.store := Memory.writeList s.ring.store i bs } := by
  induction bs generalizing s i with
  | nil => cases h; rfl
  | cons b bs ih =>
    by_cases hi : i < s.params.cap
    · simp only [writeRun, storeWrite, if_pos hi] at h
      exact ih h
    · simp [writeRun, storeWrite, hi] at h

/-- A run of host-memory writes that answers has written its bytes to host memory and nothing else. -/
theorem eq_of_writeRun_memWrite {s t : State} {a : Nat} {bs : List Byte} (h : writeRun memWrite s a bs = .ok t) :
    t = { s with ext.hostMem := Memory.writeList s.ext.hostMem a bs } := by
  induction bs generalizing s a with
  | nil => cases h; rfl
  | cons b bs ih =>
    by_cases ha : a < 2 ^ Config.hostAw
    · simp only [writeRun, memWrite, if_pos ha] at h
      exact ih h
    · simp [writeRun, memWrite, ha] at h

/-- `RingPut` that answers has changed STORE and `used` only (R113). -/
theorem eq_of_ringPut {s t : State} {bytes : List Byte} (h : ringPut s bytes = .ok t) :
    t = { s with
      ring.store := s.storeAfterPut bytes
      ring.used := BitVec.ofNat 32 (s.ring.used.toNat + bytes.length) } := by
  by_cases hn : bytes = []
  · subst hn
    cases h
    simp [State.storeAfterPut, Memory.writeList]
  · have hlen : bytes.length ≠ 0 := by simpa using hn
    simp only [ringPut, if_neg hlen] at h
    split at h
    · cases h
    · next s1 h1 =>
      split at h
      · cases h
      · next s2 h2 =>
        cases h
        rw [eq_of_writeRun_storeWrite h2, eq_of_writeRun_storeWrite h1]
        rfl

/-- The span loop that answers has examined some bytes, one after the other, and done nothing else. -/
theorem eq_foldl_of_examineSpan {n i k k' : Nat} {mm : Bool} {s t : State} (h : examineSpan n i k s = .ok (k', mm, t)) :
    ∃ bs : List Byte, t = bs.foldl State.examine s := by
  induction n generalizing i k s with
  | zero => cases h; exact ⟨[], rfl⟩
  | succ n ih =>
    simp only [examineSpan] at h
    split at h
    · cases h
    · next b hb =>
      split at h
      · obtain ⟨bs, rfl⟩ := ih h
        exact ⟨b :: bs, rfl⟩
      · cases h
        exact ⟨[b], rfl⟩

end Sys2Proof.Machine

/-! PROOFS. O13: the parameters of R9 are fixed at construction. One lemma per shared operation, then per command and per
agent. -/

namespace Sys2Proof.Machine

theorem ringPut_params {s t : State} {bytes : List Byte} (h : ringPut s bytes = .ok t) : t.params = s.params := by
  rw [eq_of_ringPut h]

theorem examineSpan_params {n i k k' : Nat} {mm : Bool} {s t : State} (h : examineSpan n i k s = .ok (k', mm, t)) :
    t.params = s.params := by
  obtain ⟨bs, rfl⟩ := eq_foldl_of_examineSpan h
  exact foldl_examine_params bs s

/-- The common checks keep the parameters where the command's body does. -/
theorem commonChecks_params {i : Instr} {s : State} {body : Out} (hb : Out.All (·.params = s.params) body) :
    Out.All (·.params = s.params) (commonChecks i s body) :=
  commonChecks_all i rfl (fun _ => rfl) hb

/-! ### The drain check -/

theorem drainTransfer_params (s : State) : (drainTransfer s).All (·.params = s.params) := by
  unfold drainTransfer
  dsimp only
  split
  · trivial
  · split
    · trivial
    · next h => simp [ringPut_params h]

theorem drainIdle_params (word : Word) (s : State) : (drainIdle word s).All (·.params = s.params) := by
  unfold drainIdle
  split
  · trivial
  · dsimp only
    split
    · simp
    · split <;> simp

theorem drainCheck_params (word : Word) (s : State) : (drainCheck word s).All (·.params = s.params) := by
  rcases drainCheck_cases word s with ⟨-, -, h⟩ | ⟨-, -, h⟩ | ⟨-, h⟩
  · rw [h]; simp
  · rw [h]; exact drainTransfer_params s.askUpstream
  · rw [h]; exact drainIdle_params word s.askUpstream

theorem drainFinish_params {p : Params} {r : DrainResult} (h : r.All (·.params = p)) :
    Out.All (·.params = p) (drainFinish r) := by
  cases r <;> exact h

theorem runDrainFinish_params {p : Params} {r : DrainResult} (h : r.All (·.params = p)) :
    Out.All (·.params = p) (runDrainFinish r) := by
  cases r <;> exact h

/-! ### The process step -/

theorem processMismatch_params (fatal : Bool) (word : Word) (total : Nat) (s : State) :
    (processMismatch fatal word total s).All (·.params = s.params) := by
  unfold processMismatch
  cases fatal <;> simp

theorem processSpans_params (fatal : Bool) (word : Word) (fuel total : Nat) (s : State) :
    (processSpans fatal word fuel total s).All (·.params = s.params) := by
  induction fuel generalizing total s with
  | zero => rfl
  | succ fuel ih =>
    unfold processSpans
    split
    · rfl
    · split
      · trivial
      · next k mm s1 h =>
        have hdrop : (ringDrop s1 k).params = s.params := by rw [ringDrop_params, examineSpan_params h]
        rw [← hdrop]
        split
        · exact processMismatch_params fatal word (total + k) (ringDrop s1 k)
        · exact ih (total + k) (ringDrop s1 k)

theorem processBody_params (config word : Word) (s : State) : (processBody config word s).All (·.params = s.params) :=
  processSpans_params _ _ _ _ { s with ctl.mismatch := false }

theorem processFinish_params {p : Params} {r : ProcessResult} (h : r.All (·.params = p)) :
    Out.All (·.params = p) (processFinish r) := by
  cases r <;> exact h

theorem runProcessFinish_params {p : Params} {r : ProcessResult} (h : r.All (·.params = p)) :
    Out.All (·.params = p) (runProcessFinish r) := by
  cases r <;> exact h

/-! ### The commands -/

theorem execRbInit_params (s : State) : Out.All (·.params = s.params) (execRbInit s) := by
  refine commonChecks_params ?_
  split <;> rfl

theorem execRbWrite_params (len : Word) (s : State) : Out.All (·.params = s.params) (execRbWrite len s) := by
  refine commonChecks_params ?_
  dsimp only
  split
  · split
    · trivial
    · split
      · trivial
      · next h => simp [ringPut_params h]
  · rfl

theorem execRbRead_params (len : Word) (s : State) : Out.All (·.params = s.params) (execRbRead len s) := by
  refine commonChecks_params ?_
  dsimp only
  split
  · split
    · trivial
    · split
      · trivial
      · next h => simp [eq_of_writeRun_memWrite h]
  · rfl

theorem execRbFlush_params (len : Word) (s : State) : Out.All (·.params = s.params) (execRbFlush len s) := by
  refine commonChecks_params ?_
  split
  · rfl
  · exact ringDrop_params s (s.available len.toNat)

theorem execFcDrain_params (s : State) : Out.All (·.params = s.params) (execFcDrain s) := by
  refine commonChecks_params ?_
  split
  · rfl
  · exact drainFinish_params (drainCheck_params _ s)

theorem execSvProcess_params (s : State) : Out.All (·.params = s.params) (execSvProcess s) :=
  commonChecks_params (processFinish_params (processBody_params _ _ s))

theorem execOsRead_params (s : State) : Out.All (·.params = s.params) (execOsRead s) := by
  refine commonChecks_params ?_
  split
  · trivial
  · rfl

theorem execLoopRun_params (s : State) : Out.All (·.params = s.params) (execLoopRun s) := by
  refine commonChecks_params ?_
  split <;> rfl

/-- No command changes a parameter. -/
theorem exec_params (i : Instr) (s : State) : Out.All (·.params = s.params) (exec i s) := by
  cases i with
  | rbInit => exact execRbInit_params s
  | rbWrite len => exact execRbWrite_params len s
  | rbRead len => exact execRbRead_params len s
  | rbFlush len => exact execRbFlush_params len s
  | rbSpan => exact commonChecks_params rfl
  | rbClear => exact commonChecks_params rfl
  | rbCap => exact commonChecks_params rfl
  | rbUsed => exact commonChecks_params rfl
  | rbFree => exact commonChecks_params rfl
  | rbEmpty => exact commonChecks_params rfl
  | rbFull => exact commonChecks_params rfl
  | fcDrain => exact execFcDrain_params s
  | svProcess => exact execSvProcess_params s
  | osRead => exact execOsRead_params s
  | loopStart => exact commonChecks_params rfl
  | loopRun => exact execLoopRun_params s

/-- A CMD write, legal or not, changes no parameter. -/
theorem issue_params (w : Word) (s : State) : Out.All (·.params = s.params) (issue w s) := by
  cases h : decode w with
  | ok i => rw [issue_decoded h]; exact exec_params i s
  | error e => rw [issue_illegal h]; exact acceptCmd_all w rfl (fun _ => rfl) rfl

/-! ### The agents' turns -/

theorem waitStep_params (s : State) : Out.All (·.params = s.params) (waitStep s) := by
  unfold waitStep
  split <;> rfl

theorem runDrainStep_params (s : State) : Out.All (·.params = s.params) (runDrainStep s) := by
  unfold runDrainStep
  split
  · rfl
  · exact runDrainFinish_params (drainCheck_params _ s)

theorem coreMove_params (s : State) : Out.All (·.params = s.params) (coreMove s) := by
  unfold coreMove
  cases s.ctl.phase with
  | idle => rfl
  | terminated => rfl
  | drainWait => exact waitStep_params s
  | runWait => exact waitStep_params s
  | drainCheck => exact drainFinish_params (drainCheck_params _ s)
  | runDrain => exact runDrainStep_params s
  | runProcess => exact runProcessFinish_params (processBody_params _ _ s)

@[simp] theorem writeReg_params (s : State) (r : HostReg) (v : Word) : (writeReg s r v).params = s.params := by
  cases r <;> rfl

theorem hostWrite_params (size : AccessSize) (off : Nat) (v : Word) (s : State) :
    Out.All (·.params = s.params) (hostWrite size off v s) := by
  unfold hostWrite
  split
  · trivial
  · exact issue_params v s
  · exact writeReg_params s _ v

theorem hostRead_params (size : AccessSize) (off : Nat) (s : State) :
    Out.All (·.params = s.params) (hostRead size off s) := by
  unfold hostRead
  split
  · trivial
  · rfl

theorem hostReadWindow_params (size : AccessSize) (i : Nat) (s : State) :
    Out.All (·.params = s.params) (hostReadWindow size i s) := by
  unfold hostReadWindow
  split
  · trivial
  · rfl

theorem hostStoreMem_params (a : Word) (b : Byte) (s : State) :
    Out.All (·.params = s.params) (hostStoreMem a b s) := by
  by_cases h : a.toNat < 2 ^ Config.hostAw <;> simp [hostStoreMem, memWrite, h]

theorem hostLoadMem_params (a : Word) (s : State) : Out.All (·.params = s.params) (hostLoadMem a s) := by
  unfold hostLoadMem
  split
  · trivial
  · rfl

theorem hostFlush_params (n : Word) (rest : List HostAction) (s : State) :
    Out.All (·.params = s.params) (hostFlush n rest s) := by
  rcases hostFlush_cases n rest s with ⟨-, h⟩ | ⟨-, h⟩ <;> rw [h]
  · exact issue_params _ (s.setProg rest)
  · exact issue_params _ (s.setProg (.flush (n - maxLen) :: rest))

theorem hostMove_params (s : State) : Out.All (·.params = s.params) (hostMove s) := by
  unfold hostMove
  split
  · rfl
  · next size off v rest _ => exact hostWrite_params size off v (s.setProg rest)
  · next size off rest _ => exact hostRead_params size off (s.setProg rest)
  · trivial
  · next size i rest _ => exact hostReadWindow_params size i (s.setProg rest)
  · next a b rest _ => exact hostStoreMem_params a b (s.setProg rest)
  · next a rest _ => exact hostLoadMem_params a (s.setProg rest)
  · rfl
  · next n rest _ => exact hostFlush_params n rest s
  · next rest _ => exact hostFlush_params s.ext.hostData rest s

theorem producerMove_params (m : ProducerMove) (s : State) : Out.All (·.params = s.params) (producerMove m s) := by
  cases m with
  | publish ptr len => rfl
  | writeFifo off b =>
    unfold producerMove
    dsimp only
    split
    · rfl
    · trivial
  | notify => exact s.notify_params

/-- No agent's turn changes a parameter. -/
theorem takeTurn_params (a : Turn) (s : State) : Out.All (·.params = s.params) (takeTurn a s) := by
  cases a with
  | core => exact coreMove_params s
  | host => exact hostMove_params s
  | producer m => exact producerMove_params m s
  | spuriousWake => rfl
  | powerOnReset => rfl

/-- Settles O13: the step of whichever agent moves keeps the parameters, and taking its turn off the list does too. -/
theorem stepKeepsParameters : Obligations.StepKeepsParameters := by
  intro s t h
  exact Out.all_iff.mp (takeTurn_params (currentTurn s) (popTurn s)) t h

end Sys2Proof.Machine

/-! PROOFS. O9, O10: the invariant. First one rule per part of the state: what an update of that part has to keep. -/

namespace Sys2Proof.Machine

theorem Params.ok_iff (p : Params) :
    p.ok = true ↔ p.cap ≤ 2 ^ 31 ∧ 1 ≤ p.winLen ∧ p.winLen ≤ 64 ∧ 1 ≤ p.fifoSize ∧ p.fifoSize ≤ 2 ^ 32 ∧
      p.ovfOffset < p.fifoSize := by
  simp [Params.ok, and_assoc]

/-- The capacity register holds the capacity (R9, R10). -/
theorem Params.capWord_toNat {p : Params} (h : p.ok = true) : (Params.capWord p).toNat = p.cap := by
  have hcap := (Params.ok_iff p).mp h
  simp only [Params.capWord, BitVec.toNat_ofNat]
  omega

/-- A phase that is neither a wait nor the check after one presupposes nothing of the buffer (R152). -/
theorem Phase.not_waits {p : Phase} (hw : p.waiting = false) (hc : p ≠ .drainCheck) :
    ¬ (p.waiting = true ∨ p = .drainCheck) := by simp [hw, hc]

/-- The part of the invariant that speaks of the ring alone (R20 to R25). -/
structure State.RingInv (s : State) : Prop where
  cap_le : s.params.cap ≤ 2 ^ 31
  used_le_cap : s.ring.used.toNat ≤ s.params.cap
  head_lt_cap : 0 < s.params.cap → s.ring.head.toNat < s.params.cap
  head_zero : s.params.cap = 0 → s.ring.head = 0
  store_wf : Memory.wf s.ring.store = true
  store_below : Memory.below s.params.cap s.ring.store = true
  valid_written : ∀ k, k < s.ring.used.toNat → (Memory.find s.ring.store (s.ringIndex k)).isSome = true
  span_current : s.ring.spanOut = true → s.ring.spanOff = s.ring.head ∧ s.ring.spanLen.toNat = s.spanLength
  ring_before_init : s.ring.initDone = false → s.ring.head = 0 ∧ s.ring.used = 0 ∧ s.ring.spanOut = false
  init_store : s.ring.initDone = true → s.params.cap = 0 ∨ s.params.storePresent = true

/-- The invariant with PHASE set aside: what a command keeps while it works, before it completes, waits or terminates. -/
def State.InvAside (s : State) : Prop := (s.setPhase .idle).Inv

section
variable {s : State}

theorem State.Inv.cap_le (h : s.Inv) : s.params.cap ≤ 2 ^ 31 := ((Params.ok_iff s.params).mp h.params_ok).1

theorem State.Inv.ringInv (h : s.Inv) : s.RingInv where
  cap_le := h.cap_le
  used_le_cap := h.used_le_cap
  head_lt_cap := h.head_lt_cap
  head_zero := h.head_zero
  store_wf := h.store_wf
  store_below := h.store_below
  valid_written := h.valid_written
  span_current := h.span_current
  ring_before_init := fun hd =>
    let ⟨hhead, hused, hspan, _⟩ := h.before_init hd
    ⟨hhead, hused, hspan⟩
  init_store := h.init_store

/-! ### Updates of one part that any state of the invariant admits -/

theorem State.Inv.with_ext (h : s.Inv) {e : External}
    (hm : Memory.wf e.hostMem = true ∧ Memory.below (2 ^ Config.hostAw) e.hostMem = true)
    (hf : Memory.wf e.fifo = true ∧ Memory.below s.params.fifoSize e.fifo = true) : State.Inv { s with ext := e } :=
  { h with host_wf := hm, fifo_wf := hf }

theorem State.Inv.with_regs (h : s.Inv) {r : HostRegs} (hc : r.config.toNat < 2) (hw : r.watermark.toNat ≤ s.params.cap) :
    State.Inv { s with regs := r } :=
  { h with
    config_reserved := ⟨hc, h.config_reserved.2⟩
    watermark_legal := ⟨hw, h.watermark_legal.2⟩ }

theorem State.Inv.with_val (h : s.Inv) {v : Validator} (hw : windowOk s.params.winLen v.win v.winCount) :
    State.Inv { s with val := v } :=
  { h with window_ok := hw }

/-- Only the notification flag may change while a command waits (R240). -/
theorem State.Inv.with_notifyPend (h : s.Inv) (b : Bool) : State.Inv { s with ctl.notifyPend := b } := { h with }

/-- A change of PHASE that does not terminate: what each phase presupposes. -/
theorem State.Inv.with_phase (h : s.Inv) {p : Phase} (hs : s.ctl.phase ≠ .terminated) (hp : p ≠ .terminated)
    (hbusy : p.busy = true → s.ring.initDone = true ∧ s.ring.spanOut = false)
    (hloop : p.looping = true → s.ctl.started = true)
    (hwait : p.waiting = true ∨ p = .drainCheck → s.ring.used = 0 ∧ s.ctl.ovfSeen = false) : (s.setPhase p).Inv :=
  { h with
    before_init := fun (hd : s.ring.initDone = false) =>
      have ⟨hhead, hused, hspan, _⟩ := h.before_init hd
      have hb : p.busy = false := by
        cases hpb : p.busy with
        | false => rfl
        | true => exact absurd hd (by simp [(hbusy hpb).1])
      ⟨hhead, hused, hspan, hb⟩
    busy_no_span := fun hb => (hbusy hb).2
    loop_started := hloop
    wait_empty := hwait
    cause_iff_terminated :=
      have hc : s.ctl.cause = .none := not_not.mp (mt h.cause_iff_terminated.mp hs)
      ⟨fun hn => absurd hc hn, fun ht => absurd ht hp⟩
    fault_cmd_zero := fun _ => h.fault_cmd_zero hs }

/-- A block that has not terminated keeps the invariant when PHASE is set aside. -/
theorem State.Inv.aside (h : s.Inv) (hs : s.ctl.phase ≠ .terminated) : s.InvAside :=
  h.with_phase hs nofun nofun nofun fun hw => absurd hw (Phase.not_waits rfl nofun)

/-! ### The invariant while a command works -/

namespace State.InvAside

theorem cause_none (h : s.InvAside) : s.ctl.cause = .none :=
  not_not.mp (mt h.cause_iff_terminated.mp nofun)

theorem ringInv (h : s.InvAside) : s.RingInv :=
  { State.Inv.ringInv h with }

theorem with_ring (h : s.InvAside) {r : Ring} (hr : State.RingInv { s with ring := r }) :
    State.InvAside { s with ring := r } :=
  { hr, h with
    before_init := fun hd =>
      have ⟨hhead, hused, hspan⟩ := hr.ring_before_init hd
      ⟨hhead, hused, hspan, rfl⟩
    busy_no_span := fun hb => absurd hb Bool.false_ne_true
    wait_empty := fun hw => absurd hw (Phase.not_waits rfl nofun)
    overflow_cause := fun (hc : s.ctl.cause = .bufferOverflow) => absurd (h.cause_none.symm.trans hc) (by decide) }

theorem with_ext (h : s.InvAside) {e : External} (hm : e.hostMem = s.ext.hostMem) (hf : e.fifo = s.ext.fifo) :
    State.InvAside { s with ext := e } :=
  State.Inv.with_ext h (hm ▸ h.host_wf) (hf ▸ h.fifo_wf)

theorem emit (h : s.InvAside) (r : Record) : (s.emit r).InvAside := h.with_ext rfl rfl

theorem askUpstream (h : s.InvAside) : s.askUpstream.InvAside := h.with_ext rfl rfl

theorem with_mismatch (h : s.InvAside) (b : Bool) (hb : b = true → s.diag.valid = true) :
    State.InvAside { s with ctl.mismatch := b } :=
  { h with
    mismatch_captured := hb
    mismatch_cause := fun (hc : s.ctl.cause = .validationMismatch) =>
      absurd (h.cause_none.symm.trans hc) (by decide) }

theorem latchOverflow (h : s.InvAside) (flag : Byte) : (s.latchOverflow flag).InvAside := by
  rcases s.latchOverflow_cases flag with ⟨-, -, heq⟩ | ⟨-, heq⟩ <;> rw [heq]
  · exact
      { h with
        wait_empty := fun hw => absurd hw (Phase.not_waits rfl nofun)
        overflow_cause := fun (hc : s.ctl.cause = .bufferOverflow) =>
          absurd (h.cause_none.symm.trans hc) (by decide) }
  · exact h

theorem markStarted (h : s.InvAside) : s.markStarted.InvAside :=
  { h with loop_started := fun hl => absurd hl Bool.false_ne_true }

/-! How a command ends. -/

theorem complete (h : s.InvAside) (v : Word) : (s.complete v).Inv := { h with }

/-- Termination (R230): OUTCOME is the one of the cause, and the two causes that are no faults say why. -/
theorem terminate (h : s.InvAside) {c : Cause} (w : Word) (hc : c ≠ .none)
    (ho : c = .bufferOverflow → s.ctl.ovfSeen = true ∧ s.ring.used = 0)
    (hm : c = .validationMismatch → s.ctl.mismatch = true) : (s.terminate c.outcome c w).Inv :=
  { h with
    busy_no_span := fun hb => absurd hb Bool.false_ne_true
    loop_started := fun hl => absurd hl Bool.false_ne_true
    wait_empty := fun hw => absurd hw (Phase.not_waits rfl nofun)
    outcome_of_cause := rfl
    cause_iff_terminated := ⟨fun _ => rfl, fun _ => hc⟩
    fault_cmd_zero := fun hp => absurd rfl hp
    overflow_cause := ho
    mismatch_cause := hm }

/-- A fault (R230): any cause whose OUTCOME is GenericProcessingFailure. -/
theorem raiseFault (h : s.InvAside) {c : Cause} (w : Word) (hc : c.outcome = .genericProcessingFailure) :
    (s.raiseFault c w).Inv := by
  rw [State.raiseFault, ← hc]
  refine h.terminate w ?_ ?_ ?_ <;> (rintro rfl; exact absurd hc (by decide))

end State.InvAside

end

end Sys2Proof.Machine

/-! PROOFS. O9, O10: the operations of the ring, the drain check and the process step keep the invariant. -/

namespace Sys2Proof.Machine

section
variable {s t : State}

/-! ### The ring (R111 to R120) -/

theorem State.spanLength_le (s : State) : s.spanLength ≤ s.ring.used.toNat := by
  unfold State.spanLength
  split <;> omega

namespace State.RingInv

/-- An empty ring over the same STORE: RB.INIT, RB.CLEAR and power-on reset (R263). -/
theorem emptied (h : s.RingInv) {r : Ring} (hstore : r.store = s.ring.store) (hhead : r.head = 0) (hused : r.used = 0)
    (hspan : r.spanOut = false) (hinit : r.initDone = true → s.params.cap = 0 ∨ s.params.storePresent = true) :
    State.RingInv { s with ring := r } where
  cap_le := h.cap_le
  used_le_cap := by simp [hused]
  head_lt_cap := by simp [hhead]
  head_zero := fun _ => hhead
  store_wf := hstore ▸ h.store_wf
  store_below := hstore ▸ h.store_below
  valid_written := by simp [hused]
  span_current := by simp [hspan]
  ring_before_init := fun _ => ⟨hhead, hused, hspan⟩
  init_store := hinit

/-- A released span (R117). -/
theorem release (h : s.RingInv) : State.RingInv { s with ring.spanOut := false } :=
  { h with
    span_current := nofun
    ring_before_init := fun hd =>
      have ⟨hhead, hused, _⟩ := h.ring_before_init hd
      ⟨hhead, hused, rfl⟩ }

/-- The span handed out by RB.SPAN is the one of the current state (R119, R120). -/
theorem span (h : s.RingInv) (hd : s.ring.initDone = true) :
    State.RingInv { s with ring.spanOff := s.ring.head, ring.spanLen := BitVec.ofNat 32 s.spanLength, ring.spanOut := true } :=
  { h with
    span_current := fun _ => by
      refine ⟨rfl, ?_⟩
      rw [BitVec.toNat_ofNat]
      exact Nat.mod_eq_of_lt (Nat.lt_of_le_of_lt s.spanLength_le s.ring.used.isLt)
    ring_before_init := fun hd' => absurd (hd.symm.trans hd') (by decide) }

/-- `RingPut` writes each new valid byte, and only those (R113). -/
theorem put (h : s.RingInv) (hspan : s.ring.spanOut = false) (hd : s.ring.initDone = true) {bytes : List Byte}
    (hfit : bytes.length ≤ s.params.cap - s.ring.used.toNat) :
    State.RingInv { s with
      ring.store := s.storeAfterPut bytes
      ring.used := BitVec.ofNat 32 (s.ring.used.toNat + bytes.length) } := by
  have hcap := h.cap_le
  have hle := h.used_le_cap
  have htotal : s.ring.used.toNat + bytes.length ≤ s.params.cap := by omega
  have hused : (BitVec.ofNat 32 (s.ring.used.toNat + bytes.length)).toNat = s.ring.used.toNat + bytes.length := by
    rw [BitVec.toNat_ofNat]
    exact Nat.mod_eq_of_lt (by omega)
  exact
    { h with
      used_le_cap := hused.trans_le htotal
      store_wf := s.wf_storeAfterPut bytes h.store_wf
      store_below := s.below_storeAfterPut bytes h.store_below hfit
      valid_written := fun k hk => by
        replace hk : k < s.ring.used.toNat + bytes.length := hused ▸ hk
        change (Memory.find (s.storeAfterPut bytes) (s.ringIndex k)).isSome = true
        by_cases hnew : s.ring.used.toNat ≤ k
        · obtain ⟨d, rfl⟩ := Nat.exists_eq_add_of_le hnew
          simp [s.find_storeAfterPut_new bytes h.head_lt_cap hfit d (by omega)]
        · rw [s.find_storeAfterPut_other bytes h.head_lt_cap hfit]
          · exact h.valid_written k (by omega)
          · intro d hdl heq
            have := s.ringIndex_inj (h.head_lt_cap (by omega)) (by omega) (by omega) heq
            omega
      span_current := fun ho => absurd (hspan.symm.trans ho) (by decide)
      ring_before_init := fun hd' => absurd (hd.symm.trans hd') (by decide) }

/-- `RingTake` keeps what is left of the valid data (R115). -/
theorem drop (h : s.RingInv) (hspan : s.ring.spanOut = false) (hd : s.ring.initDone = true) {n : Nat}
    (hn : n ≤ s.ring.used.toNat) : (ringDrop s n).RingInv := by
  by_cases h0 : n = 0
  · simpa [ringDrop, h0] using h
  have hcap := h.cap_le
  have hle := h.used_le_cap
  have hpos : 0 < s.params.cap := by omega
  have hlt := s.ringIndex_lt n hpos
  have hhead : (BitVec.ofNat 32 (s.ringIndex n)).toNat = s.ringIndex n := by
    rw [BitVec.toNat_ofNat]
    exact Nat.mod_eq_of_lt (by omega)
  have hused : (BitVec.ofNat 32 (s.ring.used.toNat - n)).toNat = s.ring.used.toNat - n := by
    rw [BitVec.toNat_ofNat]
    exact Nat.mod_eq_of_lt (by omega)
  rw [ringDrop, if_neg h0]
  exact
    { h with
      used_le_cap := hused.trans_le ((Nat.sub_le _ _).trans hle)
      head_lt_cap := fun _ => hhead.trans_lt hlt
      head_zero := fun hz => absurd hz (Nat.ne_of_gt hpos)
      valid_written := fun k hk => by
        replace hk : k < s.ring.used.toNat - n := hused ▸ hk
        have hidx : ((BitVec.ofNat 32 (s.ringIndex n)).toNat + k) % s.params.cap = s.ringIndex (n + k) := by
          rw [hhead]
          simp [State.ringIndex, Nat.add_assoc]
        have hwritten := h.valid_written (n + k) (by omega)
        rw [← hidx] at hwritten
        exact hwritten
      span_current := fun ho => absurd (hspan.symm.trans ho) (by decide)
      ring_before_init := fun hd' => absurd (hd.symm.trans hd') (by decide) }

end State.RingInv

/-! ### The working state of a command that needs INIT and mutates -/

/-- What holds while such a command works (R235); `loops` says that it is LOOP.RUN, whose marker is out (R202). -/
structure State.Working (loops : Bool) (s : State) : Prop where
  aside : s.InvAside
  init_done : s.ring.initDone = true
  no_span : s.ring.spanOut = false
  started : loops = true → s.ctl.started = true

/-- A drain check may answer: a working state where it goes on, the invariant where it has terminated, and an empty buffer with no
overflow seen where it waits (R152). -/
def DrainResult.Kept (loops : Bool) : DrainResult → Prop
  | .done _ t => t.Working loops
  | .fatal t => t.Inv
  | .block t => t.Working loops ∧ t.ring.used = 0 ∧ t.ctl.ovfSeen = false
  | .broken _ => True

/-- A process step may answer: a working state, or the invariant where it has terminated (R170). -/
def ProcessResult.Kept (loops : Bool) : ProcessResult → Prop
  | .done _ t => t.Working loops
  | .fatal t => t.Inv
  | .broken _ => True

variable {loops : Bool}

namespace State.Working

theorem with_ext (h : s.Working loops) {e : External} (hm : e.hostMem = s.ext.hostMem) (hf : e.fifo = s.ext.fifo) :
    State.Working loops { s with ext := e } :=
  { h with aside := h.aside.with_ext hm hf }

theorem askUpstream (h : s.Working loops) : s.askUpstream.Working loops := h.with_ext rfl rfl

theorem put (h : s.Working loops) {bytes : List Byte} (hfit : bytes.length ≤ s.params.cap - s.ring.used.toNat)
    (ht : ringPut s bytes = .ok t) : t.Working loops := by
  rw [eq_of_ringPut ht]
  exact { h with aside := h.aside.with_ring (h.aside.ringInv.put h.no_span h.init_done hfit) }

theorem drop (h : s.Working loops) {n : Nat} (hn : n ≤ s.ring.used.toNat) : (ringDrop s n).Working loops := by
  have hr := h.aside.ringInv.drop h.no_span h.init_done hn
  unfold ringDrop at hr ⊢
  split
  · exact h
  · next h0 =>
    rw [if_neg h0] at hr
    exact { h with aside := h.aside.with_ring hr }

/-- A working command may complete, or go on in any phase in which its marker and its ring are as the phase presupposes. -/
theorem enter (h : s.Working loops) {p : Phase} (hp : p ≠ .terminated) (hloop : p.looping = true → loops = true)
    (hwait : p.waiting = true ∨ p = .drainCheck → s.ring.used = 0 ∧ s.ctl.ovfSeen = false) : (s.setPhase p).Inv :=
  State.Inv.with_phase h.aside nofun hp (fun _ => ⟨h.init_done, h.no_span⟩) (fun hl => h.started (hloop hl)) hwait

end State.Working

/-! ### The drain check (R152 to R155) -/

theorem length_of_readRun {read : Nat → Except Fault Byte} {i n : Nat} {bs : List Byte} (h : readRun read i n = .ok bs) :
    bs.length = n := by
  induction n generalizing i bs with
  | zero => cases h; rfl
  | succ n ih =>
    simp only [readRun] at h
    split at h
    · cases h
    · split at h
      · cases h
      · next hrest =>
        cases h
        simp [ih hrest]

theorem State.accepted_le (s : State) (n : Nat) : s.accepted n ≤ s.params.cap - s.ring.used.toNat := Nat.min_le_right _ _

theorem drainTransfer_kept (h : s.Working loops) : (drainTransfer s).Kept loops := by
  unfold drainTransfer
  dsimp only
  split
  · trivial
  · next bytes hbytes =>
    split
    · trivial
    · next s' hput =>
      have hfit : bytes.length ≤ s.params.cap - s.ring.used.toNat := by
        rw [length_of_readRun hbytes]
        exact s.accepted_le _
      exact (h.put hfit hput).with_ext rfl rfl

theorem State.Working.latchOverflow (h : s.Working loops) (flag : Byte) : (s.latchOverflow flag).Working loops where
  aside := h.aside.latchOverflow flag
  init_done := by rw [State.latchOverflow_ring]; exact h.init_done
  no_span := by rw [State.latchOverflow_ring]; exact h.no_span
  started := fun hl => by
    have hstarted := h.started hl
    rcases s.latchOverflow_cases flag with ⟨-, -, heq⟩ | ⟨-, heq⟩ <;> rw [heq] <;> exact hstarted

theorem State.isEmpty_iff : s.isEmpty = true ↔ s.ring.used = 0 := by
  simp [State.isEmpty, ← BitVec.toNat_inj]

theorem drainIdle_kept (word : Word) (h : s.Working loops) : (drainIdle word s).Kept loops := by
  have hflag := ((Params.ok_iff s.params).mp h.aside.params_ok).2.2.2.2.2
  have hk := h.latchOverflow s.flagByte
  have hused : s.isEmpty = true → (s.latchOverflow s.flagByte).ring.used = 0 := by
    rw [State.latchOverflow_ring]
    exact State.isEmpty_iff.mp
  rcases drainIdle_cases word s hflag with ⟨hseen, hempty, heq⟩ | ⟨hseen, hempty, heq⟩ | ⟨-, heq⟩ <;> rw [heq]
  · exact hk.aside.terminate (c := .bufferOverflow) word nofun (fun _ => ⟨hseen, hused hempty⟩) nofun
  · exact ⟨hk, hused hempty, hseen⟩
  · exact hk

/-- What a drain check leaves. -/
theorem drainCheck_kept (word : Word) (h : s.Working loops) : (drainCheck word s).Kept loops := by
  rcases drainCheck_cases word s with ⟨-, -, heq⟩ | ⟨-, -, heq⟩ | ⟨-, heq⟩ <;> rw [heq]
  · exact h.askUpstream.aside.raiseFault word rfl
  · exact drainTransfer_kept h.askUpstream
  · exact drainIdle_kept word h.askUpstream

/-- A host-issued drain completes or waits (R150, R157). -/
theorem drainFinish_inv {r : DrainResult} (h : r.Kept loops) : Out.All State.Inv (drainFinish r) := by
  cases r with
  | done n t => exact State.InvAside.complete h.aside _
  | fatal t => exact h
  | block t =>
    obtain ⟨hw, hused, hseen⟩ := h
    exact hw.enter nofun nofun fun _ => ⟨hused, hseen⟩
  | broken f => trivial

/-- LOOP.RUN goes on to its process step, or waits (R203). -/
theorem runDrainFinish_inv {r : DrainResult} (h : r.Kept true) : Out.All State.Inv (runDrainFinish r) := by
  cases r with
  | done n t => exact State.Working.enter h nofun (fun _ => rfl) fun hw => absurd hw (Phase.not_waits rfl nofun)
  | fatal t => exact h
  | block t =>
    obtain ⟨hw, hused, hseen⟩ := h
    exact hw.enter nofun (fun _ => rfl) fun _ => ⟨hused, hseen⟩
  | broken f => trivial

/-! ### The process step (R170 to R177) -/

/-- WIN_COUNT after a push does not wrap, because WIN_LEN is small (R9, R27). -/
theorem pushCount_toNat {n : Nat} (hn : n ≤ 64) (count : Word) : (pushCount n count).toNat = min (count.toNat + 1) n := by
  rw [pushCount, BitVec.toNat_ofNat]
  exact Nat.mod_eq_of_lt (by omega)

theorem pushWindow_length {n : Nat} {win : List Byte} (h : win.length = n) (b : Byte) : (pushWindow n win b).length = n := by
  simp [pushWindow, h]

theorem pushWindow_getD_zero {n : Nat} (hn : 0 < n) (win : List Byte) (b : Byte) : (pushWindow n win b).getD 0 0 = b := by
  simp [pushWindow, List.getD_eq_getElem?_getD, hn]

/-- A push moves every older entry one place on (R27). -/
theorem pushWindow_getD_succ {n j : Nat} (hj : j + 1 < n) (win : List Byte) (b : Byte) :
    (pushWindow n win b).getD (j + 1) 0 = win.getD j 0 := by
  simp [pushWindow, List.getD_eq_getElem?_getD, hj]

/-- A push keeps the window well formed (R27). -/
theorem windowOk_push {n : Nat} {win : List Byte} {count : Word} (hn : n ≤ 64) (h : windowOk n win count) (b : Byte) :
    windowOk n (pushWindow n win b) (pushCount n count) := by
  obtain ⟨hlen, hcount, hzero⟩ := h
  rw [windowOk, pushCount_toNat hn]
  refine ⟨pushWindow_length hlen b, by omega, fun j hj hcj => ?_⟩
  obtain ⟨i, rfl⟩ : ∃ i, j = i + 1 := Nat.exists_eq_succ_of_ne_zero (by omega)
  rw [pushWindow_getD_succ hj]
  exact hzero i (by omega) (by omega)

theorem State.InvAside.countByte (h : s.InvAside) (b : Byte) : (s.countByte b).InvAside :=
  State.Inv.with_val h (windowOk_push ((Params.ok_iff s.params).mp h.params_ok).2.2.1 h.window_ok b)

theorem State.InvAside.capture (h : s.InvAside) (b : Byte) : (s.capture b).InvAside :=
  { h with
    diag_window_ok := h.window_ok
    diag_reset := nofun
    mismatch_captured := fun _ => rfl }

theorem State.InvAside.resync (h : s.InvAside) (b : Byte) : (s.resync b).InvAside := State.Inv.with_val h h.window_ok

theorem State.InvAside.markThroughput (h : s.InvAside) : s.markThroughput.InvAside := by
  unfold State.markThroughput
  split
  · exact h.emit _
  · exact h

theorem State.InvAside.examine (h : s.InvAside) (b : Byte) : (s.examine b).InvAside := by
  unfold State.examine
  dsimp only
  split
  · exact ((h.countByte b).resync b).markThroughput
  · exact (((h.countByte b).capture b).resync b).markThroughput

theorem State.Working.examine (h : s.Working loops) (b : Byte) : (s.examine b).Working loops where
  aside := h.aside.examine b
  init_done := by simpa using h.init_done
  no_span := by simpa using h.no_span
  started := by simpa using h.started

/-- A byte that was not expected leaves a capture (R173). -/
theorem State.examine_valid_of_ne {b : Byte} (h : b ≠ s.val.expected) : (s.examine b).diag.valid = true := by
  simp [State.examine, h]

/-- A span examined keeps the invariant and the ring; it takes at most its bytes, and a mismatch has been captured. -/
theorem examineSpan_kept {n i k k' : Nat} {mm : Bool} (h : s.Working loops) (ht : examineSpan n i k s = .ok (k', mm, t)) :
    t.Working loops ∧ t.ring = s.ring ∧ k' ≤ k + n ∧ (mm = true → t.diag.valid = true) := by
  induction n generalizing i k s with
  | zero => cases ht; exact ⟨h, rfl, Nat.le_refl _, nofun⟩
  | succ n ih =>
    simp only [examineSpan] at ht
    split at ht
    · cases ht
    · next b _ =>
      split at ht
      · obtain ⟨hw, hring, hk, hmm⟩ := ih (h.examine b) ht
        exact ⟨hw, hring.trans (s.examine_ring b), by omega, hmm⟩
      · next hne =>
        cases ht
        exact ⟨h.examine b, s.examine_ring b, by omega, fun _ => State.examine_valid_of_ne hne⟩

theorem processMismatch_kept (fatal : Bool) (word : Word) (total : Nat) (h : s.Working loops) (hv : s.diag.valid = true) :
    (processMismatch fatal word total s).Kept loops := by
  have hm : State.InvAside { s with ctl.mismatch := true } := h.aside.with_mismatch true fun _ => hv
  unfold processMismatch
  cases fatal with
  | false => exact { h with aside := hm.emit _ }
  | true => exact (hm.emit _).terminate (c := .validationMismatch) word nofun nofun fun _ => rfl

theorem processSpans_kept (fatal : Bool) (word : Word) (fuel total : Nat) (h : s.Working loops) :
    (processSpans fatal word fuel total s).Kept loops := by
  induction fuel generalizing total s with
  | zero => exact h
  | succ fuel ih =>
    unfold processSpans
    split
    · exact h
    · split
      · trivial
      · next k mm s1 hspan =>
        obtain ⟨hw, hring, hk, hmm⟩ := examineSpan_kept h hspan
        have hle := s.spanLength_le
        have hdrop : (ringDrop s1 k).Working loops := hw.drop (by rw [hring]; omega)
        split
        · next hmis => exact processMismatch_kept fatal word (total + k) hdrop (by rw [ringDrop_diag]; exact hmm hmis)
        · exact ih (total + k) hdrop

theorem processBody_kept (config word : Word) (h : s.Working loops) : (processBody config word s).Kept loops :=
  processSpans_kept _ _ _ _ { h with aside := h.aside.with_mismatch false nofun }

theorem processFinish_inv {r : ProcessResult} (h : r.Kept loops) : Out.All State.Inv (processFinish r) := by
  cases r with
  | done n t => exact State.InvAside.complete h.aside _
  | fatal t => exact h
  | broken f => trivial

theorem runProcessFinish_inv {r : ProcessResult} (h : r.Kept true) : Out.All State.Inv (runProcessFinish r) := by
  cases r with
  | done n t => exact State.Working.enter h nofun (fun _ => rfl) fun hw => absurd hw (Phase.not_waits rfl nofun)
  | fatal t => exact h
  | broken f => trivial

end

end Sys2Proof.Machine

/-! PROOFS. O9, O10: every command and every agent's turn keeps the invariant; the reset states have it. -/

namespace Sys2Proof.Machine

section
variable {s t : State}

/-! ### The common checks (R235) -/

/-- The checks 4 to 7 fault with a GenericProcessingFailure. -/
theorem violated_outcome {i : Instr} {c : Cause} (h : violated i s = some c) : c.outcome = .genericProcessingFailure := by
  simp only [violated] at h
  split_ifs at h <;> cases h <;> rfl

/-- What a command that passes the checks 4 to 7 may rely on. -/
theorem violated_none {i : Instr} (h : violated i s = none) :
    (needsInit i = true → s.ring.initDone = true) ∧ (i = .rbInit → s.ring.initDone = false) ∧
      (mutates i = true → isFlush i = false → s.ring.spanOut = false) := by
  simp only [violated] at h
  split_ifs at h with h1 h2 h3
  simp_all

/-- A command that runs has not terminated. -/
theorem State.not_terminated_of_busy (h : s.isBusy = true) : s.ctl.phase ≠ .terminated :=
  fun hp => by simp [State.isBusy, hp, Phase.busy] at h

/-- Checks 1 and 2 of R235 keep the invariant where what follows does on an idle block. -/
theorem acceptCmd_inv {w : Word} {body : Out} (h : s.Inv) (hb : s.InvAside → Out.All State.Inv body) :
    Out.All State.Inv (acceptCmd w s body) := by
  rcases s.phase_cases with hi | ⟨hbusy, -⟩ | ⟨ht, -⟩
  · rw [acceptCmd_idle _ _ hi]; exact hb (h.aside (by simp [hi]))
  · rw [acceptCmd_busy _ _ hbusy]; exact (h.aside (State.not_terminated_of_busy hbusy)).raiseFault w rfl
  · rw [acceptCmd_terminated _ _ ht]; exact h

/-- The common checks keep the invariant where the command's body does on an idle block that passes them. -/
theorem commonChecks_inv {i : Instr} {body : Out} (h : s.Inv)
    (hb : s.InvAside → violated i s = none → Out.All State.Inv body) : Out.All State.Inv (commonChecks i s body) := by
  refine acceptCmd_inv h fun ha => ?_
  cases hv : violated i s with
  | none => exact hb ha hv
  | some c => exact ha.raiseFault _ (violated_outcome hv)

/-- For a command that needs INIT and mutates, other than RB.FLUSH, the body starts from a working state. -/
theorem commonChecks_working {i : Instr} {body : Out} (h : s.Inv) (hn : needsInit i = true) (hm : mutates i = true)
    (hf : isFlush i = false) (hb : s.Working false → Out.All State.Inv body) :
    Out.All State.Inv (commonChecks i s body) :=
  commonChecks_inv h fun ha hv =>
    have ⟨hinit, _, hspan⟩ := violated_none hv
    hb ⟨ha, hinit hn, hspan hm hf, nofun⟩

/-! ### The commands -/

theorem execRbInit_inv (h : s.Inv) : Out.All State.Inv (execRbInit s) := by
  refine commonChecks_inv h fun ha hv => ?_
  split
  · exact ha.raiseFault _ rfl
  · next hstore =>
    have hempty (hs : s.params.cap = 0 ∨ s.params.storePresent = true) :=
      ha.ringInv.emptied (r := ⟨s.ring.store, 0, 0, true, false, 0, 0⟩) rfl rfl rfl rfl fun _ => hs
    refine State.InvAside.complete (ha.with_ring (hempty ?_)) 0
    cases hp : s.params.storePresent with
    | true => exact .inr rfl
    | false => exact .inl (by simpa [hp] using hstore)

theorem execRbWrite_inv (len : Word) (h : s.Inv) : Out.All State.Inv (execRbWrite len s) := by
  refine commonChecks_working h rfl rfl rfl fun hw => ?_
  dsimp only
  split
  · split
    · trivial
    · next bytes hbytes =>
      split
      · trivial
      · next s' hput =>
        have hfit : bytes.length ≤ s.params.cap - s.ring.used.toNat := by
          rw [length_of_readRun hbytes]
          exact s.accepted_le _
        exact (hw.put hfit hput).aside.complete _
  · exact hw.aside.raiseFault _ rfl

/-- A host write keeps host memory canonical and in bounds (R63). -/
theorem memWrite_aside {a : Nat} {b : Byte} (h : s.InvAside) (ht : memWrite s a b = .ok t) : t.InvAside := by
  simp only [memWrite] at ht
  split at ht
  · next ha =>
    cases ht
    exact State.Inv.with_ext h ⟨Memory.wf_write _ _ _ h.host_wf.1, Memory.below_write _ _ _ _ h.host_wf.2 ha⟩ h.fifo_wf
  · cases ht

theorem writeRun_memWrite_working {a : Nat} {bs : List Byte} {loops : Bool} (h : s.Working loops)
    (ht : writeRun memWrite s a bs = .ok t) : t.Working loops := by
  have haside : t.InvAside := by
    have ha := h.aside
    clear h
    induction bs generalizing s a with
    | nil => cases ht; exact ha
    | cons b bs ih =>
      simp only [writeRun] at ht
      split at ht
      · cases ht
      · next s' hs' => exact ih ht (memWrite_aside ha hs')
  have heq := eq_of_writeRun_memWrite ht
  subst heq
  exact { h with aside := haside }

theorem execRbRead_inv (len : Word) (h : s.Inv) : Out.All State.Inv (execRbRead len s) := by
  refine commonChecks_working h rfl rfl rfl fun hw => ?_
  dsimp only
  split
  · split
    · trivial
    · split
      · trivial
      · next s' hwrite =>
        have hused : s'.ring.used = s.ring.used := by rw [eq_of_writeRun_memWrite hwrite]
        have hn : s.available len.toNat ≤ s'.ring.used.toNat := by
          rw [hused]
          exact Nat.min_le_right _ _
        exact ((writeRun_memWrite_working hw hwrite).drop hn).aside.complete _
  · exact hw.aside.raiseFault _ rfl

theorem execRbFlush_inv (len : Word) (h : s.Inv) : Out.All State.Inv (execRbFlush len s) := by
  refine commonChecks_inv h fun ha hv => ?_
  have hd : s.ring.initDone = true := (violated_none hv).1 rfl
  split
  · exact ha.raiseFault _ rfl
  · dsimp only
    have hw : State.Working false { s with ring.spanOut := false } :=
      ⟨ha.with_ring ha.ringInv.release, hd, rfl, nofun⟩
    have hcomm : { ringDrop s (s.available len.toNat) with ring.spanOut := false } =
        ringDrop { s with ring.spanOut := false } (s.available len.toNat) := by
      unfold ringDrop
      split <;> rfl
    rw [hcomm]
    exact (hw.drop (Nat.min_le_right _ _)).aside.complete _

theorem execRbSpan_inv (h : s.Inv) : Out.All State.Inv (execRbSpan s) :=
  commonChecks_inv h fun ha hv =>
    State.InvAside.complete (ha.with_ring (ha.ringInv.span ((violated_none hv).1 rfl))) _

theorem execRbClear_inv (h : s.Inv) : Out.All State.Inv (execRbClear s) :=
  commonChecks_working h rfl rfl rfl fun hw =>
    have hempty : s.zeroRing.RingInv := hw.aside.ringInv.emptied rfl rfl rfl hw.no_span hw.aside.init_store
    State.InvAside.complete (hw.aside.with_ring hempty) 0

/-- A command that only writes RESULT (R121 to R125). -/
theorem complete_inv {i : Instr} (v : Word) (h : s.Inv) : Out.All State.Inv (commonChecks i s (.next (s.complete v))) :=
  commonChecks_inv h fun ha _ => ha.complete v

theorem execFcDrain_inv (h : s.Inv) : Out.All State.Inv (execFcDrain s) := by
  refine commonChecks_working h rfl rfl rfl fun hw => ?_
  split
  · exact hw.aside.complete 0
  · exact drainFinish_inv (drainCheck_kept _ hw)

theorem execSvProcess_inv (h : s.Inv) : Out.All State.Inv (execSvProcess s) :=
  commonChecks_working h rfl rfl rfl fun hw => processFinish_inv (processBody_kept _ _ hw)

theorem execOsRead_inv (h : s.Inv) : Out.All State.Inv (execOsRead s) := by
  refine commonChecks_inv h fun ha _ => ?_
  split
  · trivial
  · exact ha.complete _

theorem execLoopStart_inv (h : s.Inv) : Out.All State.Inv (execLoopStart s) :=
  commonChecks_inv h fun ha _ => ha.markStarted.complete 0

/-- LOOP.RUN enters its first phase with its marker out and with legal operands (R81(a), R202). -/
theorem State.Working.enterLoop (h : s.Working true) : s.enterLoop.Inv :=
  { h.enter (p := .runDrain) nofun (fun _ => rfl) fun hw => absurd hw (Phase.not_waits rfl nofun) with
    config_reserved := ⟨h.aside.config_reserved.1, h.aside.config_reserved.1⟩
    watermark_legal := ⟨h.aside.watermark_legal.1, h.aside.watermark_legal.1⟩ }

theorem execLoopRun_inv (h : s.Inv) : Out.All State.Inv (execLoopRun s) := by
  refine commonChecks_working h rfl rfl rfl fun hw => ?_
  split
  · next hstarted => exact State.Working.enterLoop { hw with started := fun _ => hstarted }
  · exact State.Working.enterLoop { hw with aside := hw.aside.markStarted, started := fun _ => rfl }

/-- Every command keeps the invariant. -/
theorem exec_inv (i : Instr) (h : s.Inv) : Out.All State.Inv (exec i s) := by
  cases i with
  | rbInit => exact execRbInit_inv h
  | rbWrite len => exact execRbWrite_inv len h
  | rbRead len => exact execRbRead_inv len h
  | rbFlush len => exact execRbFlush_inv len h
  | rbSpan => exact execRbSpan_inv h
  | rbClear => exact execRbClear_inv h
  | rbCap => exact complete_inv _ h
  | rbUsed => exact complete_inv _ h
  | rbFree => exact complete_inv _ h
  | rbEmpty => exact complete_inv _ h
  | rbFull => exact complete_inv _ h
  | fcDrain => exact execFcDrain_inv h
  | svProcess => exact execSvProcess_inv h
  | osRead => exact execOsRead_inv h
  | loopStart => exact execLoopStart_inv h
  | loopRun => exact execLoopRun_inv h

/-- A CMD write, legal or not, keeps the invariant. -/
theorem issue_inv (w : Word) (h : s.Inv) : Out.All State.Inv (issue w s) := by
  cases hd : decode w with
  | ok i => rw [issue_decoded hd]; exact exec_inv i h
  | error e =>
    rw [issue_illegal hd]
    exact acceptCmd_inv h fun ha => ha.raiseFault w rfl

/-! ### The core's own step -/

/-- The host registers and the ring of a block that runs a command are those of a working state (R24, R235). -/
theorem State.Inv.working_of_busy {loops : Bool} (h : s.Inv) (hb : s.isBusy = true)
    (hl : loops = true → s.ctl.phase.looping = true) : s.Working loops := by
  have hd : s.ring.initDone = true := by
    cases hd : s.ring.initDone with
    | true => rfl
    | false => exact absurd hb (by simp [(h.before_init hd).2.2.2])
  exact ⟨h.aside (State.not_terminated_of_busy hb), hd, h.busy_no_span hb, fun hloops => h.loop_started (hl hloops)⟩

/-- Leaving a wait keeps the invariant; elsewhere a wake changes nothing (R156). -/
theorem State.Inv.wakeSpurious (h : s.Inv) : s.wakeSpurious.Inv := by
  have hsame : s.ctl.phase.wakesTo = s.ctl.phase → s.wakeSpurious = s := fun hp => by
    change s.setPhase s.ctl.phase.wakesTo = s
    rw [hp]
    rfl
  cases hp : s.ctl.phase with
  | drainWait =>
    have hw : s.Working false := h.working_of_busy (by simp [State.isBusy, hp, Phase.busy]) nofun
    have hempty := h.wait_empty (.inl (by simp [State.isWaiting, hp, Phase.waiting]))
    have hwake : s.wakeSpurious = s.setPhase .drainCheck := by simp [State.wakeSpurious, State.setPhase, hp, Phase.wakesTo]
    rw [hwake]
    exact hw.enter nofun nofun fun _ => hempty
  | runWait =>
    have hw : s.Working true := h.working_of_busy (by simp [State.isBusy, hp, Phase.busy]) (by simp [hp, Phase.looping])
    have hwake : s.wakeSpurious = s.setPhase .runDrain := by simp [State.wakeSpurious, State.setPhase, hp, Phase.wakesTo]
    rw [hwake]
    exact hw.enter nofun (fun _ => rfl) fun hw => absurd hw (Phase.not_waits rfl nofun)
  | idle => rw [hsame (by rw [hp]; rfl)]; exact h
  | drainCheck => rw [hsame (by rw [hp]; rfl)]; exact h
  | runDrain => rw [hsame (by rw [hp]; rfl)]; exact h
  | runProcess => rw [hsame (by rw [hp]; rfl)]; exact h
  | terminated => rw [hsame (by rw [hp]; rfl)]; exact h

theorem waitStep_inv (h : s.Inv) : Out.All State.Inv (waitStep s) := by
  unfold waitStep
  split
  · exact h.wakeSpurious.with_notifyPend false
  · exact h

theorem runDrainStep_inv (hw : s.Working true) : Out.All State.Inv (runDrainStep s) := by
  unfold runDrainStep
  split
  · exact hw.enter nofun (fun _ => rfl) fun hw => absurd hw (Phase.not_waits rfl nofun)
  · exact runDrainFinish_inv (drainCheck_kept _ hw)

theorem coreMove_inv (h : s.Inv) : Out.All State.Inv (coreMove s) := by
  have hworking (loops : Bool) (hb : s.ctl.phase.busy = true) (hl : loops = true → s.ctl.phase.looping = true) :
      s.Working loops := h.working_of_busy hb hl
  unfold coreMove
  cases hp : s.ctl.phase with
  | idle => exact h
  | terminated => exact h
  | drainWait => exact waitStep_inv h
  | runWait => exact waitStep_inv h
  | drainCheck => exact drainFinish_inv (drainCheck_kept _ (hworking false (by rw [hp]; rfl) nofun))
  | runDrain => exact runDrainStep_inv (hworking true (by rw [hp]; rfl) fun _ => by rw [hp]; rfl)
  | runProcess => exact runProcessFinish_inv (processBody_kept _ _ (hworking true (by rw [hp]; rfl) fun _ => by rw [hp]; rfl))

/-! ### The agents around the block -/

/-- A write of a register stores a legal value only (R33, R34). -/
theorem writeReg_inv (r : HostReg) (v : Word) (h : s.Inv) : (writeReg s r v).Inv := by
  cases r with
  | arg => exact h.with_regs h.config_reserved.1 h.watermark_legal.1
  | config =>
    refine h.with_regs ?_ h.watermark_legal.1
    have hle : (v &&& configMask).toNat ≤ 1 := by
      rw [BitVec.toNat_and]
      exact Nat.and_le_right
    exact Nat.lt_succ_of_le hle
  | watermark =>
    refine h.with_regs h.config_reserved.1 ?_
    change (BitVec.ofNat 32 (min v.toNat s.params.cap)).toNat ≤ s.params.cap
    rw [BitVec.toNat_ofNat]
    exact (Nat.mod_le _ _).trans (Nat.min_le_right _ _)
  | _ => exact h

theorem State.Inv.setProg (h : s.Inv) (prog : List HostAction) : (s.setProg prog).Inv := h.with_ext h.host_wf h.fifo_wf

theorem State.Inv.deliver (h : s.Inv) (v : Word) : (s.deliver v).Inv := h.with_ext h.host_wf h.fifo_wf

theorem hostWrite_inv (size : AccessSize) (off : Nat) (v : Word) (h : s.Inv) :
    Out.All State.Inv (hostWrite size off v s) := by
  unfold hostWrite
  split
  · trivial
  · exact issue_inv v h
  · exact writeReg_inv _ v h

theorem hostRead_inv (size : AccessSize) (off : Nat) (h : s.Inv) : Out.All State.Inv (hostRead size off s) := by
  unfold hostRead
  split
  · trivial
  · exact h.deliver _

theorem hostReadWindow_inv (size : AccessSize) (i : Nat) (h : s.Inv) : Out.All State.Inv (hostReadWindow size i s) := by
  unfold hostReadWindow
  split
  · trivial
  · exact h.deliver _

theorem hostStoreMem_inv (a : Word) (b : Byte) (h : s.Inv) : Out.All State.Inv (hostStoreMem a b s) := by
  have ha : a.toNat < 2 ^ Config.hostAw := a.isLt
  simp only [hostStoreMem, memWrite, if_pos ha]
  exact h.with_ext ⟨Memory.wf_write _ _ _ h.host_wf.1, Memory.below_write _ _ _ _ h.host_wf.2 ha⟩ h.fifo_wf

theorem hostLoadMem_inv (a : Word) (h : s.Inv) : Out.All State.Inv (hostLoadMem a s) := by
  unfold hostLoadMem
  split
  · trivial
  · exact h.deliver _

theorem hostFlush_inv (n : Word) (rest : List HostAction) (h : s.Inv) : Out.All State.Inv (hostFlush n rest s) := by
  rcases hostFlush_cases n rest s with ⟨-, heq⟩ | ⟨-, heq⟩ <;> rw [heq] <;> exact issue_inv _ (h.setProg _)

theorem hostMove_inv (h : s.Inv) : Out.All State.Inv (hostMove s) := by
  unfold hostMove
  split
  · exact h
  · exact hostWrite_inv _ _ _ (h.setProg _)
  · exact hostRead_inv _ _ (h.setProg _)
  · trivial
  · exact hostReadWindow_inv _ _ (h.setProg _)
  · exact hostStoreMem_inv _ _ (h.setProg _)
  · exact hostLoadMem_inv _ (h.setProg _)
  · exact ((h.setProg _).deliver _).setProg _
  · exact hostFlush_inv _ _ h
  · exact hostFlush_inv _ _ h

theorem producerMove_inv (m : ProducerMove) (h : s.Inv) : Out.All State.Inv (producerMove m s) := by
  cases m with
  | publish ptr len => exact h.with_ext h.host_wf h.fifo_wf
  | writeFifo off b =>
    unfold producerMove
    dsimp only
    split
    · next hoff =>
      exact h.with_ext h.host_wf ⟨Memory.wf_write _ _ _ h.fifo_wf.1, Memory.below_write _ _ _ _ h.fifo_wf.2 hoff⟩
    · trivial
  | notify =>
    change s.notify.Inv
    unfold State.notify
    split
    · exact h.with_notifyPend true
    · exact h

/-! ### Reset -/

/-- A window of zeros is well formed (R45). -/
theorem windowOk_replicate (n : Nat) : windowOk n (List.replicate n 0) 0 :=
  ⟨List.length_replicate, Nat.zero_le n, fun j hj _ => by simp [List.getD_eq_getElem?_getD, hj]⟩

/-- Power-on reset establishes the invariant wherever the memories are canonical and in bounds: it is the same at the first
power-up and at a later one (R45, R260). -/
theorem State.inv_powerOnReset (hp : s.params.ok = true) (hstore : Memory.wf s.ring.store = true)
    (hbelow : Memory.below s.params.cap s.ring.store = true)
    (hm : Memory.wf s.ext.hostMem = true ∧ Memory.below (2 ^ Config.hostAw) s.ext.hostMem = true)
    (hf : Memory.wf s.ext.fifo = true ∧ Memory.below s.params.fifoSize s.ext.fifo = true) : s.powerOnReset.Inv where
  params_ok := hp
  used_le_cap := Nat.zero_le _
  head_lt_cap := id
  head_zero := fun _ => rfl
  store_wf := hstore
  store_below := hbelow
  valid_written := fun _ hk => absurd hk (Nat.not_lt_zero _)
  host_wf := hm
  fifo_wf := hf
  span_current := nofun
  before_init := fun _ => ⟨rfl, rfl, rfl, rfl⟩
  init_store := nofun
  busy_no_span := nofun
  loop_started := nofun
  wait_empty := fun hw => absurd hw (Phase.not_waits rfl nofun)
  window_ok := windowOk_replicate _
  diag_window_ok := windowOk_replicate _
  diag_reset := fun _ => rfl
  mismatch_captured := nofun
  outcome_of_cause := rfl
  cause_iff_terminated := ⟨fun hc => absurd rfl hc, nofun⟩
  fault_cmd_zero := fun _ => rfl
  overflow_cause := nofun
  mismatch_cause := nofun
  config_reserved := by
    refine ⟨?_, Nat.zero_lt_two⟩
    simp only [State.powerOnReset_regs, HostRegs.powerOn]
    split <;> decide
  watermark_legal := ⟨(Params.capWord_toNat hp).le, Nat.zero_le _⟩

theorem State.Inv.powerOnReset (h : s.Inv) : s.powerOnReset.Inv :=
  State.inv_powerOnReset h.params_ok h.store_wf h.store_below h.host_wf h.fifo_wf

/-- The first power-up is a power-on reset with nothing written (R45, log 8). -/
theorem State.inv_powerOn {p : Params} (hp : p.ok = true) : (State.powerOn p).Inv :=
  State.inv_powerOnReset (s := State.powerOn p) hp rfl rfl ⟨rfl, rfl⟩ ⟨rfl, rfl⟩

/-! ### The step -/

/-- Every agent's turn keeps the invariant. -/
theorem takeTurn_inv (a : Turn) (h : s.Inv) : Out.All State.Inv (takeTurn a s) := by
  cases a with
  | core => exact coreMove_inv h
  | host => exact hostMove_inv h
  | producer m => exact producerMove_inv m h
  | spuriousWake => exact h.wakeSpurious
  | powerOnReset => exact h.powerOnReset

theorem State.Inv.popTurn (h : s.Inv) : (popTurn s).Inv := h.with_ext h.host_wf h.fifo_wf

end

/-- Settles O10: taking the turn off the list keeps the invariant, and so does the turn itself, whichever agent's it is. -/
theorem stepKeepsInvariant : Obligations.StepKeepsInvariant := by
  intro s t h ht
  exact Out.all_iff.mp (takeTurn_inv (currentTurn s) h.popTurn) t ht

/-- Settles O9: both states are power-on resets of a machine in which nothing has been written. -/
theorem resetHasInvariant : Obligations.ResetHasInvariant :=
  ⟨fun _ hp => State.inv_powerOn hp, State.inv_powerOn rfl⟩

end Sys2Proof.Machine

/-! PROOFS. O5 to O8, O53 to O57: the host's registers, a CMD write, power-on reset and STATUS. -/

namespace Sys2Proof.Machine

/-! ### The register map (R36, R37) -/

/-- A fixed row of the register map. -/
theorem regTarget_of_lookup {off : Nat} {r : HostReg} (p : Params) (h : regMap.lookup off = some r) (h4 : off % 4 = 0) :
    regTarget p .b32 off = some r := by
  simp [regTarget, regAt, h, h4]

/-- The fixed rows are the multiples of 4 up to FAULT_CMD's. -/
theorem lookup_regMap_ne_none {off : Nat} (h : regMap.lookup off ≠ none) : off % 4 = 0 ∧ off ≤ 0x058 := by
  have hrows : ∀ e ∈ regMap, e.1 % 4 = 0 ∧ e.1 ≤ 0x058 := by decide
  rw [← Option.isSome_iff_ne_none, List.lookup_isSome_iff] at h
  obtain ⟨e, he, heq⟩ := h
  rw [eq_of_beq heq]
  exact hrows e he

theorem lookup_regMap_eq_none {off : Nat} (h : 0x058 < off) : regMap.lookup off = none :=
  not_not.mp fun hn => absurd (lookup_regMap_ne_none hn).2 (by omega)

/-- The offsets of a window row (R36). -/
theorem inWindow_iff (p : Params) (base off : Nat) : inWindow p base off = true ↔ ∃ j, j < p.winLen ∧ off = base + 4 * j := by
  simp only [inWindow, Bool.and_eq_true, decide_eq_true_eq]
  constructor
  · rintro ⟨⟨hbase, hmod⟩, hj⟩
    exact ⟨(off - base) / 4, hj, by omega⟩
  · rintro ⟨j, hj, rfl⟩
    exact ⟨⟨by omega, by omega⟩, by omega⟩

theorem regTarget_win {p : Params} {j : Nat} (hj : j < p.winLen) : regTarget p .b32 (0x100 + 4 * j) = some (.win j) := by
  have hin : inWindow p 0x100 (0x100 + 4 * j) = true := (inWindow_iff p _ _).mpr ⟨j, hj, rfl⟩
  have hmod : (0x100 + 4 * j) % 4 = 0 := by omega
  simp [regTarget, regAt, lookup_regMap_eq_none (show 0x058 < 0x100 + 4 * j by omega), hin, hmod]

/-- The captured window's row lies above the window's, because WIN_LEN is at most 64 (R9). -/
theorem regTarget_diagWin {p : Params} {j : Nat} (hp : p.ok = true) (hj : j < p.winLen) :
    regTarget p .b32 (0x200 + 4 * j) = some (.diagWin j) := by
  obtain ⟨-, -, hwin, -⟩ := (Params.ok_iff p).mp hp
  have hin : inWindow p 0x200 (0x200 + 4 * j) = true := (inWindow_iff p _ _).mpr ⟨j, hj, rfl⟩
  have hout : inWindow p 0x100 (0x200 + 4 * j) = false := by
    rw [Bool.eq_false_iff, Ne, inWindow_iff]
    rintro ⟨i, hi, heq⟩
    omega
  have hmod : (0x200 + 4 * j) % 4 = 0 := by omega
  simp [regTarget, regAt, lookup_regMap_eq_none (show 0x058 < 0x200 + 4 * j by omega), hin, hout, hmod]

/-- No other offset is mapped (R36). -/
theorem regAt_ne_none {p : Params} {off : Nat} (h : regAt p off ≠ none) :
    (off % 4 = 0 ∧ off ≤ 0x058) ∨ ∃ j, j < p.winLen ∧ (off = 0x100 + 4 * j ∨ off = 0x200 + 4 * j) := by
  unfold regAt at h
  split at h
  · next r hr => exact .inl (lookup_regMap_ne_none (by simp [hr]))
  · split_ifs at h with hw hd
    · obtain ⟨j, hj, heq⟩ := (inWindow_iff p _ _).mp hw
      exact .inr ⟨j, hj, .inl heq⟩
    · obtain ⟨j, hj, heq⟩ := (inWindow_iff p _ _).mp hd
      exact .inr ⟨j, hj, .inr heq⟩
    · exact absurd rfl h

/-- A read of a mapped register delivers its value and does nothing else (R37). -/
theorem hostRead_mapped {s : State} {size : AccessSize} {off : Nat} {r : HostReg} (h : regTarget s.params size off = some r) :
    hostRead size off s = .next { s with ext.hostData := readReg s r } := by
  simp [hostRead, h, State.deliver]

theorem hostRead_row {s : State} {off : Nat} (r : HostReg) (h : regMap.lookup off = some r) (h4 : off % 4 = 0) :
    hostRead .b32 off s = .next { s with ext.hostData := readReg s r } :=
  hostRead_mapped (regTarget_of_lookup s.params h h4)

/-- A write of a mapped register other than CMD (R37). -/
theorem hostWrite_mapped {s : State} {size : AccessSize} {off : Nat} {r : HostReg} (v : Word)
    (h : regTarget s.params size off = some r) (hr : r ≠ .cmd) : hostWrite size off v s = .next (writeReg s r v) := by
  unfold hostWrite
  split
  · next hn => exact absurd (h.symm.trans hn) (by simp)
  · next hc => exact absurd (Option.some.inj (h.symm.trans hc)) hr
  · next r' _ hr' => rw [Option.some.inj (h.symm.trans hr')]

/-- The fields of DIAG_BYTES (R36). -/
theorem diagBytes_fields (valid : Bool) (obs exp : Byte) :
    let v := (0 : BitVec 15) ++ BitVec.ofBool valid ++ obs ++ exp
    v.extractLsb' 0 8 = exp ∧ v.extractLsb' 8 8 = obs ∧ v.getLsbD 16 = valid ∧ v.extractLsb' 17 15 = 0 := by
  simp [-Nat.reduceAdd, BitVec.extractLsb'_append_eq_of_le, BitVec.extractLsb'_append_eq_right, BitVec.getElem_append]

/-- Settles O53: the fixed rows one by one, the two window rows by index, and no other offset. -/
theorem registerMapReads : Obligations.RegisterMapReads := by
  intro s hp reads
  exact
    ⟨hostRead_row .cmd rfl rfl, hostRead_row .arg rfl rfl, hostRead_row .result rfl rfl, hostRead_row .status rfl rfl,
      hostRead_row .capacity rfl rfl, hostRead_row .head rfl rfl, hostRead_row .used rfl rfl, hostRead_row .spanOff rfl rfl,
      hostRead_row .spanLen rfl rfl, hostRead_row .expected rfl rfl, hostRead_row .bpLo rfl rfl, hostRead_row .bpHi rfl rfl,
      hostRead_row .config rfl rfl, hostRead_row .watermark rfl rfl,
      ⟨_, hostRead_row .diagBytes rfl rfl, diagBytes_fields _ _ _⟩,
      hostRead_row .diagHead rfl rfl, hostRead_row .diagUsed rfl rfl, hostRead_row .diagCap rfl rfl,
      hostRead_row .diagBpLo rfl rfl, hostRead_row .diagBpHi rfl rfl, hostRead_row .winCount rfl rfl,
      hostRead_row .diagWinCount rfl rfl, hostRead_row .faultCmd rfl rfl,
      fun j hj => ⟨hostRead_mapped (regTarget_win hj), hostRead_mapped (regTarget_diagWin hp hj)⟩,
      fun _ h => regAt_ne_none h⟩

/-- An access reaches a register only if it is 32-bit, at a multiple of 4 and mapped (R37). -/
theorem regTarget_eq_none {p : Params} {size : AccessSize} {off : Nat}
    (h : size ≠ .b32 ∨ off % 4 ≠ 0 ∨ regAt p off = none) : regTarget p size off = none := by
  unfold regTarget
  split_ifs with hc
  · obtain ⟨hsize, hmod⟩ : size = .b32 ∧ off % 4 = 0 := by simpa using hc
    simpa [hsize, hmod] using h
  · rfl

/-- A write of a read-only register has no effect (R37). -/
theorem writeReg_readOnly (s : State) {r : HostReg} (v : Word) (h : r ∉ [.cmd, .arg, .config, .watermark]) :
    writeReg s r v = s := by
  cases r with
  | arg => simp at h
  | config => simp at h
  | watermark => simp at h
  | _ => rfl

/-- Settles O54: which accesses reach a register decides, and then what its read and its write do. -/
theorem registerAccessRules : Obligations.RegisterAccessRules := by
  intro s size off v
  constructor
  · intro h
    have hn := regTarget_eq_none h
    exact ⟨by simp [hostWrite, hn], by simp [hostRead, hn]⟩
  · rintro rfl hmod r hr
    have ht : regTarget s.params .b32 off = some r := by simp [regTarget, hmod, hr]
    refine ⟨fun hro => ?_, readReg s r, hostRead_mapped ht⟩
    rw [hostWrite_mapped v ht (fun hc => hro (by simp [hc])), writeReg_readOnly s v hro]

/-- Settles O55: the three rows a host write reaches, and the legal value WATERMARK takes. -/
theorem writableRegistersHoldLegalValues : Obligations.WritableRegistersHoldLegalValues := by
  intro s v hp
  have hrow {off : Nat} {r : HostReg} (h : regMap.lookup off = some r) (h4 : off % 4 = 0) (hr : r ≠ .cmd) :=
    hostWrite_mapped v (regTarget_of_lookup s.params h h4) hr
  refine ⟨hrow (r := .arg) rfl rfl nofun, hrow (r := .config) rfl rfl nofun, ?_, legalWatermark s.params v,
    hrow (r := .watermark) rfl rfl nofun, ?_⟩
  · change (v &&& 1 &&& 1).toNat = v.toNat % 2
    simp [BitVec.and_assoc]
  · rw [legalWatermark, BitVec.toNat_ofNat]
    exact Nat.mod_eq_of_lt ((Nat.min_le_left _ _).trans_lt v.isLt)

/-! ### STATUS (R41, R221, R222) -/

/-- Where each field of a word built like STATUS stands: the two codes, and the flags from bit 0 up (R41). -/
theorem statusLayout (cause : BitVec 8) (outcome : BitVec 4) (f0 f1 f2 f3 f4 f5 f6 f7 f8 f9 f10 : Bool) :
    let w := (0 : BitVec 8) ++ cause ++ outcome ++ (0 : BitVec 1) ++ BitVec.ofBool f10 ++ BitVec.ofBool f9 ++
      BitVec.ofBool f8 ++ BitVec.ofBool f7 ++ BitVec.ofBool f6 ++ BitVec.ofBool f5 ++ BitVec.ofBool f4 ++ BitVec.ofBool f3 ++
      BitVec.ofBool f2 ++ BitVec.ofBool f1 ++ BitVec.ofBool f0
    w.getLsbD 0 = f0 ∧ w.getLsbD 1 = f1 ∧ w.getLsbD 2 = f2 ∧ w.getLsbD 3 = f3 ∧ w.getLsbD 4 = f4 ∧ w.getLsbD 5 = f5 ∧
      w.getLsbD 6 = f6 ∧ w.getLsbD 7 = f7 ∧ w.getLsbD 8 = f8 ∧ w.getLsbD 9 = f9 ∧ w.getLsbD 10 = f10 ∧
      w.getLsbD 11 = false ∧ w.extractLsb' 12 4 = outcome ∧ w.extractLsb' 16 8 = cause ∧ w.extractLsb' 24 8 = 0 := by
  simp [-Nat.reduceAdd, BitVec.getElem_append, BitVec.extractLsb'_append_eq_of_le, BitVec.extractLsb'_append_eq_right]

theorem Phase.busy_eq (p : Phase) : p.busy = decide (p ≠ .idle ∧ p ≠ .terminated) := by cases p <;> rfl

theorem Phase.waiting_eq (p : Phase) : p.waiting = decide (p = .drainWait ∨ p = .runWait) := by cases p <;> rfl

/-- Settles O56: BUSY and WAITING by their phases, every field by its place in the word. -/
theorem statusFields : Obligations.StatusFields := by
  intro s
  rw [← Phase.busy_eq, ← Phase.waiting_eq]
  exact statusLayout _ _ _ _ _ _ _ _ _ _ _ _ _

/-- Settles O57: the two fields of STATUS, then the codes by their tables. -/
theorem outcomeAndCauseCodes : Obligations.OutcomeAndCauseCodes := by
  intro s
  obtain ⟨-, -, -, -, -, -, -, -, -, -, -, -, houtcome, hcause, -⟩ := statusFields s
  rw [houtcome, hcause]
  constructor
  · cases s.ctl.outcome <;> rfl
  · cases s.ctl.cause <;> rfl

/-! ### A CMD write runs the command (R38, log 4) -/

/-- On the host's turn a step takes the host's next action; a 32-bit write to CMD issues its word. -/
theorem step_cmdWrite {s : State} {w : Word} {rest : List HostAction} (hprog : s.ext.prog = .writeReg .b32 0x000 w :: rest)
    (hturn : currentTurn s = .host) : step s = issue w { s with ext.prog := rest, ext.turns := s.ext.turns.tail } := by
  have htarget : regTarget s.params .b32 0x000 = some .cmd := regTarget_of_lookup s.params rfl rfl
  simp [step, hturn, takeTurn, hostMove, hprog, hostWrite, htarget, State.setProg, popTurn]

/-- Settles O5: the word the host writes is issued, and decodes to the command. -/
theorem stepRunsCommandWritten : Obligations.StepRunsCommandWritten := by
  intro s w i rest hprog hturn hdecode
  rw [step_cmdWrite hprog hturn, issue_decoded hdecode]

theorem decode_of_decodeTableWord {nbits w : Nat} {i : Instr} (h : decodeTableWord nbits w = some i) :
    decode (BitVec.ofNat 32 (w % 2 ^ nbits)) = .ok i := by
  unfold decodeTableWord at h
  split at h
  · split at h
    · next hd => rw [hd, Option.some.inj h]
    · cases h
  · cases h

/-- Settles O6: the placed action and turn are the next ones, and the step takes both off again. -/
theorem placedWordRunsNext : Obligations.PlacedWordRunsNext := by
  intro s nbits w i h
  rw [step_cmdWrite (s := s.withFetchWord nbits w) rfl rfl, issue_decoded (decode_of_decodeTableWord h)]
  rfl

/-! ### Power-on reset and power-up (R45, R260, R262) -/

/-- STATUS after power-on reset: EMPTY, and FULL where there is no capacity (R41, R45). -/
theorem State.powerOnReset_statusWord (s : State) :
    s.powerOnReset.statusWord = if s.params.cap = 0 then 0x00000018 else 0x00000008 := by
  have hfull : s.powerOnReset.isFull = decide (s.params.cap = 0) := by
    simp [State.isFull, Ring.powerOn, eq_comm]
  have hempty : s.powerOnReset.isEmpty = true := rfl
  have hphase : s.powerOnReset.isTerminated = false ∧ s.powerOnReset.isWaiting = false ∧ s.powerOnReset.isBusy = false :=
    ⟨rfl, rfl, rfl⟩
  simp only [State.statusWord, hfull, hempty, hphase, State.powerOnReset_ctl, State.powerOnReset_ring, Control.powerOn,
    Ring.powerOn]
  by_cases h : s.params.cap = 0
  · simp only [h, decide_true]; decide
  · simp only [h, decide_false]; decide

/-- Settles O7: the turn is a power-on reset of the state without it. -/
theorem powerOnResetRegisters : Obligations.PowerOnResetRegisters := by
  intro s hturn
  refine ⟨(popTurn s).powerOnReset, by rw [step, hturn]; rfl, ?_⟩
  have hstatus := (popTurn s).powerOnReset_statusWord
  exact ⟨rfl, rfl, rfl, rfl, rfl, rfl, rfl, rfl, rfl, rfl, rfl, rfl, rfl, rfl, rfl, rfl, rfl, rfl, rfl, rfl, rfl, rfl, rfl, rfl,
    rfl, rfl, hstatus, rfl⟩

/-- Settles O8: no byte of STORE has been written, so each reads as the free value. -/
theorem powerUpStoreIsFree : Obligations.PowerUpStoreIsFree := by
  intro p i hi
  have hfree : Memory.byte .store (State.powerOn p).ring.store i = Config.unwrittenByte .store i := rfl
  rw [storeRead, State.powerOn_params, if_pos hi, hfree]

end Sys2Proof.Machine

/-! PROOFS. O16, O37, O42, O46: what a command and a step leave alone. First the predicates on states that every shared
operation keeps, and one walk over the meanings for all of them. -/

namespace Sys2Proof.Machine

/-- A record of an overflow edge (R155). -/
def Record.isOverflow (r : Record) : Bool := r matches .overflowDetected _ _ _

/-- `P` is kept by every update of the commands and agents but those of the validator, the capture, OVF_SEEN and MISMATCH, the
record of an overflow edge, and power-on reset. -/
structure OpsKeep (P : State → Prop) : Prop where
  ring : ∀ {s : State} (r : Ring), P s → P { s with ring := r }
  regs : ∀ {s : State} (r : HostRegs), P s → P { s with regs := r }
  ext : ∀ {s : State} (e : External), e.log = s.ext.log → P s → P { s with ext := e }
  ctl : ∀ {s : State} (c : Control), c.ovfSeen = s.ctl.ovfSeen → c.mismatch = s.ctl.mismatch → P s → P { s with ctl := c }
  emit : ∀ {s : State} (r : Record), r.isOverflow = false → P s → P (s.emit r)

section
variable {P : State → Prop} {s t : State}

namespace OpsKeep

theorem setPhase (hk : OpsKeep P) (p : Phase) (h : P s) : P (s.setPhase p) := hk.ctl _ rfl rfl h

theorem complete (hk : OpsKeep P) (v : Word) (h : P s) : P (s.complete v) :=
  hk.regs { s.regs with result := v } (hk.setPhase .idle h)

theorem terminate (hk : OpsKeep P) (o : EndOutcome) (c : Cause) (w : Word) (h : P s) : P (s.terminate o c w) :=
  hk.emit (s := s.markTerminated o c w) _ rfl (hk.ctl _ rfl rfl h)

theorem raiseFault (hk : OpsKeep P) (c : Cause) (w : Word) (h : P s) : P (s.raiseFault c w) := hk.terminate _ c w h

theorem markStarted (hk : OpsKeep P) (h : P s) : P s.markStarted := hk.emit .running rfl (hk.ctl _ rfl rfl h)

theorem enterLoop (hk : OpsKeep P) (h : P s) : P s.enterLoop := hk.ctl _ rfl rfl h

theorem ringDrop (hk : OpsKeep P) (n : Nat) (h : P s) : P (ringDrop s n) := by
  unfold Machine.ringDrop
  split
  · exact h
  · exact hk.ring _ h

theorem ringPut (hk : OpsKeep P) {bytes : List Byte} (h : P s) (ht : ringPut s bytes = .ok t) : P t := by
  rw [eq_of_ringPut ht]
  exact hk.ring _ h

theorem askUpstream (hk : OpsKeep P) (h : P s) : P s.askUpstream := hk.ext _ rfl h

/-- The common checks keep what the command's body keeps (R235). -/
theorem commonChecks (hk : OpsKeep P) {i : Instr} {body : Out} (h : P s) (hb : Out.All P body) :
    Out.All P (commonChecks i s body) :=
  commonChecks_all i h (fun c => hk.raiseFault c _ h) hb

/-! ### The drain check: only its latch is not covered -/

theorem drainTransfer (hk : OpsKeep P) (h : P s) : (drainTransfer s).All P := by
  unfold Machine.drainTransfer
  dsimp only
  split
  · trivial
  · split
    · trivial
    · next s' hput => exact hk.ext _ rfl (hk.ringPut h hput)

theorem drainIdle (hk : OpsKeep P) (word : Word) (h : P (s.latchOverflow s.flagByte)) : (drainIdle word s).All P := by
  by_cases hflag : s.params.ovfOffset < s.params.fifoSize
  · rcases drainIdle_cases word s hflag with ⟨-, -, heq⟩ | ⟨-, -, heq⟩ | ⟨-, heq⟩ <;> rw [heq]
    · exact hk.terminate _ _ _ h
    · exact h
    · exact h
  · simp [Machine.drainIdle, fifoRead, hflag]

theorem drainCheck (hk : OpsKeep P) (word : Word) (h : P s)
    (hl : s.ext.upLen = 0 → P (s.askUpstream.latchOverflow s.flagByte)) : (drainCheck word s).All P := by
  rcases drainCheck_cases word s with ⟨-, -, heq⟩ | ⟨-, -, heq⟩ | ⟨hlen, heq⟩ <;> rw [heq]
  · exact hk.raiseFault _ _ (hk.askUpstream h)
  · exact hk.drainTransfer (hk.askUpstream h)
  · exact hk.drainIdle word (hl hlen)

theorem drainFinish (hk : OpsKeep P) {r : DrainResult} (h : r.All P) : Out.All P (drainFinish r) := by
  cases r with
  | done n t => exact hk.complete _ h
  | fatal t => exact h
  | block t => exact hk.setPhase _ h
  | broken f => trivial

theorem runDrainFinish (hk : OpsKeep P) {r : DrainResult} (h : r.All P) : Out.All P (runDrainFinish r) := by
  cases r with
  | done n t => exact hk.setPhase _ h
  | fatal t => exact h
  | block t => exact hk.setPhase _ h
  | broken f => trivial

/-! ### The process step, for a predicate that the examination of a byte and MISMATCH keep too -/

theorem processMismatch (hk : OpsKeep P) (fatal : Bool) (word : Word) (total : Nat) (h : P { s with ctl.mismatch := true }) :
    (processMismatch fatal word total s).All P := by
  have hrec := hk.emit s.mismatchRecord rfl h
  unfold Machine.processMismatch
  cases fatal with
  | false => exact hrec
  | true => exact hk.terminate _ _ _ hrec

theorem processSpans (hk : OpsKeep P) (hex : ∀ {s : State} (b : Byte), P s → P (s.examine b))
    (hmis : ∀ {s : State} (b : Bool), P s → P { s with ctl.mismatch := b }) (fatal : Bool) (word : Word) (fuel total : Nat)
    (h : P s) : (processSpans fatal word fuel total s).All P := by
  have hfold (bs : List Byte) {u : State} (hu : P u) : P (bs.foldl State.examine u) := by
    induction bs generalizing u with
    | nil => exact hu
    | cons b bs ih => exact ih (hex b hu)
  induction fuel generalizing total s with
  | zero => exact h
  | succ fuel ih =>
    unfold Machine.processSpans
    split
    · exact h
    · split
      · trivial
      · next k mm s1 hspan =>
        obtain ⟨bs, rfl⟩ := eq_foldl_of_examineSpan hspan
        have hdrop := hk.ringDrop k (hfold bs h)
        split
        · exact hk.processMismatch _ _ _ (hmis true hdrop)
        · exact ih _ hdrop

theorem processFinish (hk : OpsKeep P) {r : ProcessResult} (h : r.All P) : Out.All P (processFinish r) := by
  cases r with
  | done n t => exact hk.complete _ h
  | fatal t => exact h
  | broken f => trivial

theorem runProcessFinish (hk : OpsKeep P) {r : ProcessResult} (h : r.All P) : Out.All P (runProcessFinish r) := by
  cases r with
  | done n t => exact hk.setPhase _ h
  | fatal t => exact h
  | broken f => trivial

/-! ### The commands -/

theorem execRbWrite (hk : OpsKeep P) (len : Word) (h : P s) : Out.All P (execRbWrite len s) := by
  refine hk.commonChecks h ?_
  dsimp only
  split
  · split
    · trivial
    · split
      · trivial
      · next s' hput => exact hk.complete _ (hk.ringPut h hput)
  · exact hk.raiseFault _ _ h

theorem execRbRead (hk : OpsKeep P) (len : Word) (h : P s) : Out.All P (execRbRead len s) := by
  refine hk.commonChecks h ?_
  dsimp only
  split
  · split
    · trivial
    · split
      · trivial
      · next s' hwrite =>
        rw [eq_of_writeRun_memWrite hwrite]
        exact hk.complete _ (hk.ringDrop _ (hk.ext _ rfl h))
  · exact hk.raiseFault _ _ h

/-- Every command, given what the latch of a drain check and the process step do. -/
theorem exec (hk : OpsKeep P) (i : Instr) (h : P s)
    (hl : s.ext.upLen = 0 → P (s.askUpstream.latchOverflow s.flagByte))
    (hp : i = .svProcess → ∀ config word, (processBody config word s).All P) : Out.All P (exec i s) := by
  cases i with
  | rbInit =>
    refine hk.commonChecks h ?_
    split
    · exact hk.raiseFault _ _ h
    · exact hk.complete _ (hk.ring _ (hk.ring _ h))
  | rbWrite len => exact hk.execRbWrite len h
  | rbRead len => exact hk.execRbRead len h
  | rbFlush len =>
    refine hk.commonChecks h ?_
    split
    · exact hk.raiseFault _ _ h
    · exact hk.complete _ (hk.ring _ (hk.ringDrop _ h))
  | rbSpan => exact hk.commonChecks h (hk.complete _ (hk.ring _ h))
  | rbClear => exact hk.commonChecks h (hk.complete _ (hk.ring _ h))
  | rbCap => exact hk.commonChecks h (hk.complete _ h)
  | rbUsed => exact hk.commonChecks h (hk.complete _ h)
  | rbFree => exact hk.commonChecks h (hk.complete _ h)
  | rbEmpty => exact hk.commonChecks h (hk.complete _ h)
  | rbFull => exact hk.commonChecks h (hk.complete _ h)
  | fcDrain =>
    refine hk.commonChecks h ?_
    split
    · exact hk.complete _ h
    · exact hk.drainFinish (hk.drainCheck _ h hl)
  | svProcess => exact hk.commonChecks h (hk.processFinish (hp rfl _ _))
  | osRead =>
    refine hk.commonChecks h ?_
    split
    · trivial
    · exact hk.complete _ h
  | loopStart => exact hk.commonChecks h (hk.complete _ (hk.markStarted h))
  | loopRun =>
    refine hk.commonChecks h ?_
    split
    · exact hk.enterLoop h
    · exact hk.enterLoop (hk.markStarted h)

/-- A CMD write, legal or not. -/
theorem issue (hk : OpsKeep P) (w : Word) (h : P s) (hl : s.ext.upLen = 0 → P (s.askUpstream.latchOverflow s.flagByte))
    (hp : ∀ config word, (processBody config word s).All P) : Out.All P (issue w s) := by
  cases hd : decode w with
  | ok i => rw [issue_decoded hd]; exact hk.exec i h hl fun _ => hp
  | error e =>
    rw [issue_illegal hd]
    exact acceptCmd_all w h (fun c => hk.raiseFault c w h) (hk.raiseFault _ w h)

/-! ### The agents' turns -/

theorem waitStep (hk : OpsKeep P) (h : P s) : Out.All P (waitStep s) := by
  unfold Machine.waitStep
  split
  · exact hk.ctl _ rfl rfl h
  · exact h

theorem coreMove (hk : OpsKeep P) (h : P s) (hl : s.ext.upLen = 0 → P (s.askUpstream.latchOverflow s.flagByte))
    (hp : ∀ config word, (processBody config word s).All P) : Out.All P (coreMove s) := by
  unfold Machine.coreMove
  cases s.ctl.phase with
  | idle => exact h
  | terminated => exact h
  | drainWait => exact hk.waitStep h
  | runWait => exact hk.waitStep h
  | drainCheck => exact hk.drainFinish (hk.drainCheck _ h hl)
  | runDrain =>
    dsimp only
    unfold runDrainStep
    split
    · exact hk.setPhase _ h
    · exact hk.runDrainFinish (hk.drainCheck _ h hl)
  | runProcess => exact hk.runProcessFinish (hp _ _)

theorem writeReg (hk : OpsKeep P) (r : HostReg) (v : Word) (h : P s) : P (writeReg s r v) := by
  cases r with
  | arg => exact hk.regs _ h
  | config => exact hk.regs _ h
  | watermark => exact hk.regs _ h
  | _ => exact h

theorem deliver (hk : OpsKeep P) (v : Word) (h : P s) : P (s.deliver v) := hk.ext _ rfl h

theorem setProg (hk : OpsKeep P) (prog : List HostAction) (h : P s) : P (s.setProg prog) := hk.ext _ rfl h

theorem hostWrite (hk : OpsKeep P) (size : AccessSize) (off : Nat) (v : Word) (h : P s)
    (hi : ∀ w, Out.All P (Machine.issue w s)) : Out.All P (hostWrite size off v s) := by
  unfold Machine.hostWrite
  split
  · trivial
  · exact hi v
  · exact hk.writeReg _ v h

theorem hostRead (hk : OpsKeep P) (size : AccessSize) (off : Nat) (h : P s) : Out.All P (hostRead size off s) := by
  unfold Machine.hostRead
  split
  · trivial
  · exact hk.deliver _ h

theorem hostReadWindow (hk : OpsKeep P) (size : AccessSize) (i : Nat) (h : P s) : Out.All P (hostReadWindow size i s) := by
  unfold Machine.hostReadWindow
  split
  · trivial
  · exact hk.deliver _ h

theorem hostStoreMem (hk : OpsKeep P) (a : Word) (b : Byte) (h : P s) : Out.All P (hostStoreMem a b s) := by
  have ha : a.toNat < 2 ^ Config.hostAw := a.isLt
  simp only [Machine.hostStoreMem, memWrite, if_pos ha]
  exact hk.ext _ rfl h

theorem hostLoadMem (hk : OpsKeep P) (a : Word) (h : P s) : Out.All P (hostLoadMem a s) := by
  unfold Machine.hostLoadMem
  split
  · trivial
  · exact hk.deliver _ h

/-- The host's turn, given what a CMD write does in the state without the action taken. -/
theorem hostMove (hk : OpsKeep P) (h : P s) (hi : ∀ prog w, Out.All P (Machine.issue w (s.setProg prog))) :
    Out.All P (hostMove s) := by
  have hflush (n : Word) (rest : List HostAction) : Out.All P (hostFlush n rest s) := by
    rcases hostFlush_cases n rest s with ⟨-, heq⟩ | ⟨-, heq⟩ <;> rw [heq] <;> exact hi _ _
  unfold Machine.hostMove
  split
  · exact h
  · exact hk.hostWrite _ _ _ (hk.setProg _ h) (hi _)
  · exact hk.hostRead _ _ (hk.setProg _ h)
  · trivial
  · exact hk.hostReadWindow _ _ (hk.setProg _ h)
  · exact hk.hostStoreMem _ _ (hk.setProg _ h)
  · exact hk.hostLoadMem _ (hk.setProg _ h)
  · exact hk.setProg _ (hk.deliver _ (hk.setProg _ h))
  · exact hflush _ _
  · exact hflush _ _

theorem producerMove (hk : OpsKeep P) (m : ProducerMove) (h : P s) : Out.All P (producerMove m s) := by
  cases m with
  | publish ptr len => exact hk.ext _ rfl h
  | writeFifo off b =>
    unfold Machine.producerMove
    dsimp only
    split
    · exact hk.ext _ rfl h
    · trivial
  | notify =>
    change P s.notify
    unfold State.notify
    split
    · exact hk.ctl _ rfl rfl h
    · exact h

/-- Every turn but power-on reset, given what the latch of a drain check and the process step do. The host's program matters
because a host turn takes its first action off before a CMD write runs (log 4). -/
theorem takeTurn (hk : OpsKeep P) {a : Turn} (ha : a ≠ .powerOnReset) (h : P s)
    (hl : ∀ prog, s.ext.upLen = 0 → P ((s.setProg prog).askUpstream.latchOverflow s.flagByte))
    (hp : ∀ prog config word, (processBody config word (s.setProg prog)).All P) : Out.All P (takeTurn a s) := by
  cases a with
  | core => exact hk.coreMove h (hl s.ext.prog) (hp s.ext.prog)
  | host => exact hk.hostMove h fun prog w => hk.issue w (hk.setProg prog h) (hl prog) (hp prog)
  | producer m => exact hk.producerMove m h
  | spuriousWake => exact hk.ctl _ rfl rfl h
  | powerOnReset => exact absurd rfl ha

end OpsKeep

end

/-! ### O46: the validator, the capture and MISMATCH -/

/-- The registers SV.PROCESS alone writes are as in `s` (R26 to R29). -/
def State.SameValidator (s t : State) : Prop := t.val = s.val ∧ t.diag = s.diag ∧ t.ctl.mismatch = s.ctl.mismatch

theorem State.opsKeep_sameValidator (s : State) : OpsKeep s.SameValidator where
  ring := fun _ h => h
  regs := fun _ h => h
  ext := fun _ _ h => h
  ctl := fun _ _ hm ⟨hval, hdiag, hmis⟩ => ⟨hval, hdiag, hm.trans hmis⟩
  emit := fun _ _ h => h

/-- Settles O46: the shared operations write none of these registers, nor does the overflow latch of a drain check. -/
theorem validatorWrittenByProcessOnly : Obligations.ValidatorWrittenByProcessOnly := by
  intro i s t hi ht
  have hlatch : s.SameValidator (s.askUpstream.latchOverflow s.flagByte) := by
    rcases s.askUpstream.latchOverflow_cases s.flagByte with ⟨-, -, heq⟩ | ⟨-, heq⟩ <;> rw [heq] <;> exact ⟨rfl, rfl, rfl⟩
  exact Out.all_iff.mp (s.opsKeep_sameValidator.exec i ⟨rfl, rfl, rfl⟩ (fun _ => hlatch) fun hsv => absurd hsv hi) t ht

/-! ### O42: one byte examined -/

section
variable (s : State) (b : Byte)

/-- A byte that was not expected captures the whole context, with the counter and window of after the push (R173). -/
theorem State.examine_diag_mismatch (h : b ≠ s.val.expected) :
    (s.examine b).diag = ⟨true, s.val.expected, b, s.ring.head, s.ring.used, Params.capWord s.params,
      (s.examine b).val.bytesProcessed, (s.examine b).val.win, (s.examine b).val.winCount⟩ := by
  rw [State.examine_bytesProcessed, State.examine_win, State.examine_winCount]
  simp [State.examine, h]

/-- A throughput record is emitted exactly when the new counter is a multiple of the period (R175, log 12). -/
theorem State.examine_log :
    (s.examine b).ext.log = s.ext.log ++
      (if (s.val.bytesProcessed + 1).toNat % Config.throughputPeriod = 0 then [.throughput (s.val.bytesProcessed + 1)]
       else []) := by
  have hmark (u : State) (hb : u.val.bytesProcessed = s.val.bytesProcessed + 1) (hlog : u.ext.log = s.ext.log) :
      u.markThroughput.ext.log = s.ext.log ++
        (if (s.val.bytesProcessed + 1).toNat % Config.throughputPeriod = 0 then [.throughput (s.val.bytesProcessed + 1)]
         else []) := by
    unfold State.markThroughput
    rw [hb]
    split <;> simp [hlog]
  unfold State.examine
  dsimp only
  split <;> exact hmark _ rfl rfl

end

/-- Settles O42: part by part, from what `examine` does to each. -/
theorem examineOneByte : Obligations.ExamineOneByte := by
  intro s b h t
  obtain ⟨-, hpos, hwin, -⟩ := (Params.ok_iff s.params).mp h.params_ok
  obtain ⟨hlen, -, -⟩ := h.window_ok
  have htwin : t.val.win = pushWindow s.params.winLen s.val.win b := s.examine_win b
  refine ⟨s.examine_bytesProcessed b, s.examine_expected b, ?_, ?_, ?_, ?_, s.examine_diag_match b, ?_, s.examine_log b,
    s.examine_ring b, s.examine_ctl b, s.examine_regs b⟩
  · rw [htwin, pushWindow_length hlen]
  · rw [htwin, pushWindow_getD_zero hpos]
  · intro j hj hjw
    obtain ⟨i, rfl⟩ : ∃ i, j = i + 1 := Nat.exists_eq_succ_of_ne_zero (by omega)
    rw [htwin, pushWindow_getD_succ hjw, Nat.add_sub_cancel]
  · rw [s.examine_winCount b, pushCount_toNat hwin]
  · intro hne
    rw [s.examine_diag_mismatch b hne, s.examine_bytesProcessed]
    rfl

/-! ### O16: commands before RB.INIT -/

theorem needsInit_eq_false_iff (i : Instr) : needsInit i = false ↔ i ∈ [.rbInit, .rbCap, .osRead, .loopStart] := by
  cases i <;> simp [needsInit]

/-- Every command makes the common checks before its body (R235). -/
theorem exec_eq_commonChecks (i : Instr) (s : State) : ∃ body, exec i s = commonChecks i s body := by
  cases i <;> exact ⟨_, rfl⟩

theorem violated_ne_notInitialized {i : Instr} (s : State) (h : needsInit i = false) :
    violated i s ≠ some .notInitialized := by
  simp only [violated, h]
  split_ifs <;> simp_all

/-- What tells an answer apart from the fault NOT_INITIALIZED. -/
def State.NotUninitialized (t : State) : Prop := t.ctl.phase = .idle ∨ t.ctl.cause ≠ .notInitialized

theorem commonChecks_notUninitialized {i : Instr} {s : State} {body : Out} (hi : s.Idle) (hn : needsInit i = false)
    (hb : Out.All State.NotUninitialized body) : Out.All State.NotUninitialized (commonChecks i s body) := by
  cases hv : violated i s with
  | none => rwa [commonChecks_pass body hi hv]
  | some c =>
    rw [commonChecks_fail body hi hv]
    exact .inr fun hc => violated_ne_notInitialized s hn (hv.trans (congrArg some hc))

/-- The four exempt commands complete, or fault for another reason (R24, R93). -/
theorem exec_notUninitialized {i : Instr} {s : State} (hi : s.Idle) (hn : i ∈ [.rbInit, .rbCap, .osRead, .loopStart]) :
    Out.All State.NotUninitialized (exec i s) := by
  have hneeds := (needsInit_eq_false_iff i).mpr hn
  simp only [List.mem_cons, List.not_mem_nil, or_false] at hn
  rcases hn with rfl | rfl | rfl | rfl
  · refine commonChecks_notUninitialized hi hneeds ?_
    split
    · exact .inr nofun
    · exact .inl rfl
  · exact commonChecks_notUninitialized hi hneeds (.inl rfl)
  · refine commonChecks_notUninitialized hi hneeds ?_
    split
    · trivial
    · exact .inl rfl
  · exact commonChecks_notUninitialized hi hneeds (.inl rfl)

/-- Settles O16: check 4 of R235 for the commands that need INIT; the other four never answer its fault. -/
theorem commandsNeedInit : Obligations.CommandsNeedInit := by
  intro i s hi hd
  constructor
  · intro hmem
    have hneeds : needsInit i = true := by
      rw [← Bool.not_eq_false, needsInit_eq_false_iff]
      exact hmem
    obtain ⟨body, hbody⟩ := exec_eq_commonChecks i s
    rw [Traps, hbody]
    exact commonChecks_fail body hi (by simp [violated, hneeds, hd])
  · intro hmem htraps
    have hnot := Out.all_iff.mp (exec_notUninitialized hi hmem) _ htraps
    rcases hnot with hphase | hcause
    · exact absurd hphase nofun
    · exact hcause rfl

/-! ### O37: the overflow latch -/

/-- The record of an overflow edge in a state (R155). -/
def State.edgeRecord (s : State) : Record := .overflowDetected s.ring.head s.ring.used (Params.capWord s.params)

/-- What a step from `s` does to OVF_SEEN and to the records of its edges: nothing, or one rise whose record is the first (R30,
R155). -/
inductive State.Latches (s t : State) : Prop
  | quiet (rest : List Record) (hseen : t.ctl.ovfSeen = s.ctl.ovfSeen) (hlog : t.ext.log = s.ext.log ++ rest)
      (hrest : rest.countP Record.isOverflow = 0)
  | rise (rest : List Record) (hs : s.ctl.ovfSeen = false) (ht : t.ctl.ovfSeen = true) (hflag : s.flagByte ≠ 0)
      (hlen : s.ext.upLen = 0) (hlog : t.ext.log = s.ext.log ++ s.edgeRecord :: rest)
      (hrest : rest.countP Record.isOverflow = 0)

namespace State.Latches

variable {s t u : State}

theorem refl (s : State) : s.Latches s := .quiet [] rfl (List.append_nil _).symm rfl

/-- Only OVF_SEEN and the LOG matter, and the LOG may get records of other kinds. -/
theorem append (h : s.Latches t) {rs : List Record} (hseen : u.ctl.ovfSeen = t.ctl.ovfSeen)
    (hlog : u.ext.log = t.ext.log ++ rs) (hrs : rs.countP Record.isOverflow = 0) : s.Latches u := by
  cases h with
  | quiet rest hs hl hrest =>
    exact .quiet (rest ++ rs) (hseen.trans hs) (by simp [hlog, hl]) (by simp [hrest, hrs])
  | rise rest hs ht hflag hlen hl hrest =>
    exact .rise (rest ++ rs) hs (hseen.trans ht) hflag hlen (by simp [hlog, hl]) (by simp [hrest, hrs])

theorem congr (h : s.Latches t) (hseen : u.ctl.ovfSeen = t.ctl.ovfSeen) (hlog : u.ext.log = t.ext.log) : s.Latches u :=
  h.append (rs := []) hseen (by simp [hlog]) rfl

theorem opsKeep (s : State) : OpsKeep s.Latches where
  ring := fun _ h => h.congr rfl rfl
  regs := fun _ h => h.congr rfl rfl
  ext := fun _ hlog h => h.congr rfl hlog
  ctl := fun _ hseen _ h => h.congr hseen rfl
  emit := fun r hr h => h.append rfl rfl (by simp [hr])

theorem examine (h : s.Latches t) (b : Byte) : s.Latches (t.examine b) := by
  refine h.append (by rw [State.examine_ctl]) (t.examine_log b) ?_
  split <;> rfl

/-- The process step leaves the latch alone (R170). -/
theorem processBody (h : s.Latches t) (config word : Word) : (processBody config word t).All s.Latches :=
  (opsKeep s).processSpans (fun b hb => hb.examine b) (fun _ hb => hb.congr rfl rfl) _ _ _ _ (h.congr rfl rfl)

/-- The latch of a drain check that found nothing upstream (R155). -/
theorem latchOverflow (hring : t.ring = s.ring) (hparams : t.params = s.params) (hseen : t.ctl.ovfSeen = s.ctl.ovfSeen)
    (hlog : t.ext.log = s.ext.log) (hlen : s.ext.upLen = 0) : s.Latches (t.latchOverflow s.flagByte) := by
  rcases t.latchOverflow_cases s.flagByte with ⟨hflag, hunseen, heq⟩ | ⟨-, heq⟩ <;> rw [heq]
  · exact .rise [] (hseen.symm.trans hunseen) rfl hflag hlen (by simp [hlog, hring, hparams, State.edgeRecord]) rfl
  · exact (refl s).congr hseen hlog

end State.Latches

/-- Every step but power-on reset leaves the latch and the records of its edges alone, or makes one rise. -/
theorem step_latches {s t : State} (ht : step s = .next t) (hturn : currentTurn s ≠ .powerOnReset) : s.Latches t := by
  have hpop (prog : List HostAction) : s.Latches ((popTurn s).setProg prog) := (State.Latches.refl s).congr rfl rfl
  have hturn' := (State.Latches.opsKeep s).takeTurn (s := popTurn s) hturn (hpop s.ext.prog)
    (fun _ hlen => State.Latches.latchOverflow rfl rfl rfl rfl hlen) fun prog => (hpop prog).processBody
  exact Out.all_iff.mp hturn' t ht

/-- Settles O37: both ways a step can treat the latch have the stated counts. -/
theorem overflowLatchHolds : Obligations.OverflowLatchHolds := by
  intro s t ht hturn rises edges
  have hedges (u : State) : edges u = u.ext.log.countP Record.isOverflow := rfl
  rw [hedges, hedges]
  cases step_latches ht hturn with
  | quiet rest hseen hlog hrest =>
    have hno : ¬ rises := fun ⟨hs, hts⟩ => by simp [hseen, hs] at hts
    refine ⟨fun hs => hseen.trans hs, ?_, fun hr => absurd hr hno⟩
    simp [hlog, hrest, hno]
  | rise rest hs hts hflag hlen hlog hrest =>
    have hrises : rises := ⟨hs, hts⟩
    refine ⟨fun _ => hts, ?_, fun _ => ⟨hflag, hlen, rest, hlog⟩⟩
    have hedge : s.edgeRecord.isOverflow = true := rfl
    simp [hlog, hrest, hrises, hedge]

end Sys2Proof.Machine

/-! PROOFS. O58, O59: the store window and the producer's moves. -/

namespace Sys2Proof.Machine

/-! ### The store window (R62) -/

/-- An 8-bit read below CAP delivers the byte (R62). -/
theorem hostReadWindow_below {s : State} {i : Nat} (h : i < s.params.cap) :
    hostReadWindow .b8 i s = .next { s with ext.hostData := (Memory.byte .store s.ring.store i).setWidth 32 } := by
  simp [hostReadWindow, windowRead, h, State.deliver]

/-- A wider read, or one at or above CAP, is refused (R62). -/
theorem hostReadWindow_refused {s : State} {size : AccessSize} {i : Nat} (h : size ≠ .b8 ∨ s.params.cap ≤ i) :
    hostReadWindow size i s = .refused .storeWindowAccess := by
  have hnone : windowRead s size i = none := by
    unfold windowRead
    split_ifs with hc
    · obtain ⟨hsize, hi⟩ : size = .b8 ∧ i < s.params.cap := by simpa using hc
      rcases h with hne | hle
      · exact absurd hsize hne
      · omega
    · rfl
  simp [hostReadWindow, hnone]

/-- A valid byte stands at an index below CAP (R13, R23). -/
theorem State.Inv.ringIndex_lt {s : State} (h : s.Inv) {k : Nat} (hk : k < s.ring.used.toNat) :
    s.ringIndex k < s.params.cap :=
  s.ringIndex_lt k (Nat.zero_lt_of_lt (hk.trans_le h.used_le_cap))

/-- Settles O58: which reads reach a byte; inside the valid data the invariant says that the byte has been written. -/
theorem storeWindowIsReadOnly : Obligations.StoreWindowIsReadOnly := by
  intro s size i v rest
  refine ⟨fun hsize hi => ?_, hostReadWindow_refused, fun hprog => ?_, ?_⟩
  · subst hsize
    exact hostReadWindow_below hi
  · simp [hostMove, hprog]
  · rintro hinv k hk rfl
    obtain ⟨b, hb⟩ := Option.isSome_iff_exists.mp (hinv.valid_written k hk)
    refine ⟨b, hb, ?_⟩
    rw [hostReadWindow_below (hinv.ringIndex_lt hk), Memory.byte_of_find hb]

/-! ### The producer's moves (R75, R240) -/

/-- Settles O59: each of the three moves by what it updates; a notification may set NOTIFY_PEND. -/
theorem producerMovesStayOutside : Obligations.ProducerMovesStayOutside := by
  intro m s t h
  cases m with
  | publish ptr len => cases h; exact ⟨rfl, rfl, rfl, rfl, rfl, rfl, rfl⟩
  | writeFifo off b =>
    simp only [producerMove] at h
    split at h
    · cases h; exact ⟨rfl, rfl, rfl, rfl, rfl, rfl, rfl⟩
    · cases h
  | notify =>
    cases h
    simp

end Sys2Proof.Machine

/-! PROOFS. O33, O34: the logical contents under insertion and removal, then a drain step with a run upstream. -/

namespace Sys2Proof.Machine

section
variable {s t : State}

/-! ### The logical contents (R13, R23, R127) -/

@[simp] theorem State.contents_length (s : State) : s.contents.length = s.ring.used.toNat := by simp [State.contents]

theorem State.contents_getElem {k : Nat} (hk : k < s.contents.length) : s.contents[k] = s.ringByte k := by
  simp [State.contents]

/-- The contents are a matter of the ring and CAP. -/
theorem State.contents_congr (hring : t.ring = s.ring) (hparams : t.params = s.params) : t.contents = s.contents := by
  unfold State.contents State.ringByte State.ringIndex
  rw [hring, hparams]

/-- `RingPut` answers where the bytes fit (R113). -/
theorem ringPut_answers {bytes : List Byte} (hfit : bytes.length ≤ s.params.cap - s.ring.used.toNat) :
    ∃ t, ringPut s bytes = .ok t := by
  by_cases hn : bytes = []
  · subst hn; exact ⟨s, ringPut_nil s⟩
  · exact ⟨_, ringPut_ok s bytes hfit hn⟩

/-- `RingPut` appends its bytes to the contents (R113, R114). -/
theorem contents_of_ringPut {bytes : List Byte} (h : s.RingInv)
    (hfit : bytes.length ≤ s.params.cap - s.ring.used.toNat) (ht : ringPut s bytes = .ok t) :
    t.contents = s.contents ++ bytes := by
  have hcap := h.cap_le
  have hle := h.used_le_cap
  rw [eq_of_ringPut ht]
  apply List.ext_getElem
  · simp only [State.contents_length, List.length_append, BitVec.toNat_ofNat]
    omega
  · intro k hk hk'
    simp only [State.contents_length, List.length_append] at hk'
    rw [State.contents_getElem, List.getElem_append]
    change Memory.byte .store (s.storeAfterPut bytes) (s.ringIndex k) = _
    split
    · next hold =>
      rw [State.contents_getElem]
      simp only [State.contents_length] at hold
      refine Memory.byte_congr (s.find_storeAfterPut_other bytes h.head_lt_cap hfit _ fun d hd heq => ?_) rfl
      have := s.ringIndex_inj (h.head_lt_cap (by omega)) (by omega) (by omega) heq
      omega
    · next hnew =>
      simp only [State.contents_length, Nat.not_lt] at hnew
      obtain ⟨d, rfl⟩ := Nat.exists_eq_add_of_le hnew
      have hfind := s.find_storeAfterPut_new bytes h.head_lt_cap hfit d (by omega)
      simp [Memory.byte_of_find hfind]

/-- `RingTake` of at most `used` bytes takes `n` off the front, modulo CAP (R13, R115). -/
theorem State.RingInv.toNat_ringDrop (h : s.RingInv) {n : Nat} (hn : n ≤ s.ring.used.toNat) :
    (ringDrop s n).ring.head.toNat = s.ringIndex n ∧ (ringDrop s n).ring.used.toNat = s.ring.used.toNat - n := by
  have hcap := h.cap_le
  have hle := h.used_le_cap
  rw [Machine.ringDrop_ring]
  split
  · next h0 =>
    subst h0
    refine ⟨?_, rfl⟩
    by_cases hz : s.params.cap = 0
    · simp [State.ringIndex, h.head_zero hz]
    · exact (Nat.mod_eq_of_lt (h.head_lt_cap (by omega))).symm
  · have hlt := s.ringIndex_lt n (by omega)
    exact ⟨Nat.mod_eq_of_lt (by omega), Nat.mod_eq_of_lt (by omega)⟩

/-- `RingTake` removes the oldest bytes of the contents (R115). -/
theorem State.RingInv.contents_ringDrop (h : s.RingInv) {n : Nat} (hn : n ≤ s.ring.used.toNat) :
    (ringDrop s n).contents = s.contents.drop n := by
  obtain ⟨hhead, hused⟩ := h.toNat_ringDrop hn
  have hstore : (ringDrop s n).ring.store = s.ring.store := by
    rw [Machine.ringDrop_ring]
    split <;> rfl
  apply List.ext_getElem
  · simp [hused]
  · intro k hk hk'
    have hidx : (ringDrop s n).ringIndex k = s.ringIndex (n + k) := by
      rw [State.ringIndex, hhead, ringDrop_params]
      simp [State.ringIndex, Nat.add_assoc]
    rw [State.contents_getElem, List.getElem_drop, State.contents_getElem, State.ringByte, State.ringByte, hstore, hidx]

/-! ### Where the drain check runs (R150, R156, R203) -/

/-- A host-issued FC.DRAIN that is not above the watermark (R151). -/
theorem exec_fcDrain_check (hr : s.Ready) (hw : s.ring.used.toNat ≤ s.regs.watermark.toNat) :
    exec .fcDrain s = drainFinish (drainCheck 0x10000000 s) := by
  have hpass : exec .fcDrain s = _ := commonChecks_pass _ hr.1 (violated_ready hr nofun nofun)
  have hbelow : s.aboveWatermark s.regs.watermark = false := by simpa [State.aboveWatermark] using hw
  rw [hpass, if_neg (by simp [hbelow])]
  rfl

theorem coreMove_drainCheck (h : s.ctl.phase = .drainCheck) : coreMove s = drainFinish (drainCheck 0x10000000 s) := by
  rw [coreMove, h]
  rfl

/-- LOOP.RUN's drain step that is not above the watermark (R203). -/
theorem coreMove_runDrain_check (h : s.ctl.phase = .runDrain) (hw : s.ring.used.toNat ≤ s.ctl.loopWatermark.toNat) :
    coreMove s = runDrainFinish (drainCheck 0x31000000 s) := by
  have hbelow : s.aboveWatermark s.ctl.loopWatermark = false := by simpa [State.aboveWatermark] using hw
  have hstep : coreMove s = runDrainStep s := by rw [coreMove, h]
  rw [hstep, runDrainStep, if_neg (by simp [hbelow])]
  rfl

/-! ### The drain check with a run upstream (R70, R152, R153) -/

theorem runAllowed_iff (p : Params) (ptr len : Nat) :
    runAllowed p ptr len = true ↔
      ptr + len ≤ p.fifoSize ∧ ¬ (ptr ≤ p.ovfOffset ∧ p.ovfOffset < ptr + len) := by
  simp only [runAllowed, Bool.and_eq_true, Bool.not_eq_true', Bool.and_eq_false_iff, decide_eq_true_eq,
    decide_eq_false_iff_not]
  rw [not_and_or]

theorem drainCheck_allowed (word : Word) (hlen : 0 < s.ext.upLen)
    (ha : runAllowed s.params s.ext.upPtr s.ext.upLen = true) : drainCheck word s = drainTransfer s.askUpstream := by
  simp [drainCheck, hlen, ha]

theorem drainCheck_notAllowed (word : Word) (hlen : 0 < s.ext.upLen)
    (ha : runAllowed s.params s.ext.upPtr s.ext.upLen = false) :
    drainCheck word s = .fatal (s.askUpstream.raiseFault .upstreamContract word) := by
  simp [drainCheck, hlen, ha]

/-- `t` is `s` after the first `n` bytes of the run have been copied into the ring and released (R152, R153). -/
structure State.Admits (s t : State) (n : Nat) : Prop where
  contents : t.contents = s.contents ++ s.runBytes n
  store_frame : ∀ i, (∀ k, k < n → s.ringIndex (s.ring.used.toNat + k) ≠ i) →
    Memory.find t.ring.store i = Memory.find s.ring.store i
  ring : t.ring = { s.ring with store := t.ring.store, used := BitVec.ofNat 32 (s.ring.used.toNat + n) }
  ext : t.ext = { s.ext with
    upPtr := s.ext.upPtr + n, upLen := s.ext.upLen - n, upLog := s.ext.upLog ++ [.remove n] }
  params : t.params = s.params
  val : t.val = s.val
  diag : t.diag = s.diag
  ctl : t.ctl = s.ctl
  regs : t.regs = s.regs

/-- The transfer of a run inside the FIFO region admits what fits and never leaves a space (R152, R153). -/
theorem drainTransfer_admits (h : s.RingInv) (hrun : s.ext.upPtr + s.ext.upLen ≤ s.params.fifoSize) :
    ∃ t, drainTransfer s = .done (s.accepted s.ext.upLen) t ∧ s.Admits t (s.accepted s.ext.upLen) := by
  have hle : s.accepted s.ext.upLen ≤ s.ext.upLen := Nat.min_le_left _ _
  have hfit := s.accepted_le s.ext.upLen
  simp only [drainTransfer]
  generalize s.accepted s.ext.upLen = n at *
  have hread : readRun (fifoRead s) s.ext.upPtr n = .ok (s.runBytes n) := readRun_fifoRead s _ _ (by omega)
  have hlen : (s.runBytes n).length = n := by simp [State.runBytes]
  rw [← hlen] at hfit
  obtain ⟨u, hu⟩ := ringPut_answers hfit
  have hueq := eq_of_ringPut hu
  refine ⟨u.removeUpstream n, by simp only [hread, hu], ?_⟩
  exact
    { contents := Eq.trans (b := u.contents) (State.contents_congr rfl rfl) (contents_of_ringPut h hfit hu)
      store_frame := fun i hi => by
        rw [State.removeUpstream_ring, hueq]
        exact s.find_storeAfterPut_other _ h.head_lt_cap hfit i (by rwa [hlen])
      ring := by rw [State.removeUpstream_ring, hueq, hlen]
      ext := by rw [State.removeUpstream_ext, hueq]
      params := by rw [State.removeUpstream_params, hueq]
      val := by rw [State.removeUpstream_val, hueq]
      diag := by rw [State.removeUpstream_diag, hueq]
      ctl := by rw [State.removeUpstream_ctl, hueq]
      regs := by rw [State.removeUpstream_regs, hueq] }

end

/-- Settles O33: the three places run one drain check, whose transfer admits what fits; they differ in how they go on. -/
theorem drainAdmitsRun : Obligations.DrainAdmitsRun := by
  intro s h hlen hrun hflag n admitted
  obtain ⟨u, hu, ha⟩ := drainTransfer_admits (s := s.askUpstream) { h.ringInv with } hrun
  have hcheck (word : Word) : drainCheck word s = .done n u := by
    rw [drainCheck_allowed word hlen ((runAllowed_iff _ _ _).mpr ⟨hrun, hflag⟩), hu]
    rfl
  have hadmitted {t : State} (hring : t.ring = u.ring) (hext : t.ext = u.ext) (hparams : t.params = u.params)
      (hval : t.val = u.val) (hdiag : t.diag = u.diag) : admitted t := by
    refine ⟨(State.contents_congr hring hparams).trans ha.contents, ?_, ?_, ?_, hparams.trans ha.params,
      hval.trans ha.val, hdiag.trans ha.diag⟩
    · rw [hring]; exact ha.store_frame
    · rw [hring]; exact ha.ring
    · rw [hext, ha.ext]; simp [n, State.accepted, State.freeBytes]
  refine ⟨fun hr hw => ?_, fun hp => ?_, fun hp hw => ?_⟩
  · refine ⟨u.complete (BitVec.ofNat 32 n), ?_, hadmitted rfl rfl rfl rfl rfl, ?_, ?_⟩
    · rw [exec_fcDrain_check hr hw, hcheck]; rfl
    · rw [State.complete_ctl_of_idle _ (ha.ctl.symm ▸ hr.1), ha.ctl]; rfl
    · rw [State.complete_regs, ha.regs]; rfl
  · refine ⟨u.complete (BitVec.ofNat 32 n), ?_, hadmitted rfl rfl rfl rfl rfl, ?_, ?_⟩
    · rw [coreMove_drainCheck hp, hcheck]; rfl
    · rw [State.complete_ctl, ha.ctl]; rfl
    · rw [State.complete_regs, ha.regs]; rfl
  · refine ⟨u.setPhase .runProcess, ?_, hadmitted rfl rfl rfl rfl rfl, ?_, ha.regs⟩
    · rw [coreMove_runDrain_check hp hw, hcheck]; rfl
    · rw [State.setPhase_ctl, ha.ctl]; rfl

/-- Settles O34: the three places run one drain check, which rejects the run after the question alone. -/
theorem drainRejectsBadRun : Obligations.DrainRejectsBadRun := by
  intro s hlen hbad asked
  have ha : runAllowed s.params s.ext.upPtr s.ext.upLen = false := by
    rw [Bool.eq_false_iff, Ne, runAllowed_iff]
    rintro ⟨hinside, hflag⟩
    rcases hbad with houtside | hcovers
    · omega
    · exact hflag hcovers
  have hcheck (word : Word) : drainCheck word s = .fatal (asked.raiseFault .upstreamContract word) :=
    drainCheck_notAllowed word hlen ha
  refine ⟨fun hr hw => ?_, fun hp => ?_, fun hp hw => ?_⟩
  · rw [exec_fcDrain_check hr hw, hcheck]; rfl
  · rw [coreMove_drainCheck hp, hcheck]; rfl
  · rw [coreMove_runDrain_check hp hw, hcheck]; rfl

end Sys2Proof.Machine

/-! PROOFS. O45: the process step in closed form. One byte, then a run of bytes, then a span, then all spans. -/

namespace Sys2Proof.Machine

/-- The window is short (R9). -/
theorem Params.winLen_le {p : Params} (h : p.ok = true) : p.winLen ≤ 64 := by
  obtain ⟨-, -, hwin, -⟩ := (Params.ok_iff p).mp h
  exact hwin

/-- The overflow flag lies in the FIFO region (R9). -/
theorem Params.ovfOffset_lt {p : Params} (h : p.ok = true) : p.ovfOffset < p.fifoSize := by
  obtain ⟨-, -, -, -, -, hflag⟩ := (Params.ok_iff p).mp h
  exact hflag

section
variable {s t : State} {loops : Bool}

theorem State.InvAside.winLen_le (h : s.InvAside) : s.params.winLen ≤ 64 := Params.winLen_le h.params_ok

/-! ### The leading match of a list of bytes (R171) -/

theorem matchLen_le (e : Byte) (bs : List Byte) : matchLen e bs ≤ bs.length := by
  induction bs generalizing e with
  | nil => exact Nat.le_refl _
  | cons b bs ih =>
    unfold matchLen
    split
    · exact Nat.succ_le_succ (ih _)
    · exact Nat.zero_le _

theorem matchLen_take (e : Byte) (bs : List Byte) (k : Nat) : matchLen e (bs.take k) = min (matchLen e bs) k := by
  induction k generalizing e bs with
  | zero => simp [matchLen]
  | succ k ih =>
    cases bs with
    | nil => simp [matchLen]
    | cons b bs =>
      rw [List.take_succ_cons, matchLen, matchLen]
      split
      · rw [ih]; omega
      · exact (Nat.zero_min _).symm

/-- After `k` matching bytes the match goes on where the sequence has come to. -/
theorem matchLen_drop {e : Byte} {bs : List Byte} {k : Nat} (h : k ≤ matchLen e bs) :
    matchLen (e + BitVec.ofNat 8 k) (bs.drop k) = matchLen e bs - k := by
  induction k generalizing e bs with
  | zero => simp
  | succ k ih =>
    cases bs with
    | nil => simp [matchLen] at h
    | cons b bs =>
      rw [matchLen] at h ⊢
      split at h
      · next hb =>
        have hnext : e + BitVec.ofNat 8 (k + 1) = e + 1 + BitVec.ofNat 8 k := by
          rw [Nat.add_comm k 1, BitVec.ofNat_add, BitVec.add_assoc]
          rfl
        rw [if_pos hb, List.drop_succ_cons, hnext, ih (Nat.le_of_succ_le_succ h)]
        omega
      · omega

/-- The byte after the leading match is not the expected one (R172). -/
theorem ne_of_getElem?_matchLen {e b : Byte} {bs : List Byte} (h : bs[matchLen e bs]? = some b) :
    b ≠ e + BitVec.ofNat 8 (matchLen e bs) := by
  have hrest := matchLen_drop (e := e) (bs := bs) (Nat.le_refl _)
  obtain ⟨hlt, rfl⟩ := List.getElem?_eq_some_iff.mp h
  rw [List.drop_eq_getElem_cons hlt, matchLen, Nat.sub_self] at hrest
  intro hb
  rw [if_pos hb] at hrest
  omega

/-! ### A run of bytes examined (R170 to R175) -/

theorem throughputs_add (bp : Count) (j k : Nat) :
    throughputs bp (j + k) = throughputs bp j ++ throughputs (bp + BitVec.ofNat 64 j) k := by
  unfold throughputs
  rw [List.range_add, List.filterMap_append, List.filterMap_map]
  congr 2
  funext i
  have hsum : bp + BitVec.ofNat 64 (j + i + 1) = bp + BitVec.ofNat 64 j + BitVec.ofNat 64 (i + 1) := by
    rw [Nat.add_assoc, BitVec.ofNat_add, BitVec.add_assoc]
  simp only [Function.comp_apply, hsum]

/-- What examining the bytes `bs` does but for a capture, with `e` expected next. -/
def State.examinedRun (s : State) (bs : List Byte) (e : Byte) : State :=
  { s with val := s.examinedVal bs e, ext.log := s.ext.log ++ throughputs s.val.bytesProcessed bs.length }

/-- Two runs one after the other are one run (WIN_COUNT saturates at WIN_LEN, R27). -/
theorem State.examinedRun_examinedRun (hw : s.params.winLen ≤ 64) (as bs : List Byte) (d e : Byte) :
    (s.examinedRun as d).examinedRun bs e = s.examinedRun (as ++ bs) e := by
  have hcount : (BitVec.ofNat 32 (min (s.val.winCount.toNat + as.length) s.params.winLen)).toNat =
      min (s.val.winCount.toNat + as.length) s.params.winLen := Nat.mod_eq_of_lt (by omega)
  have hmin : min (min (s.val.winCount.toNat + as.length) s.params.winLen + bs.length) s.params.winLen =
      min (s.val.winCount.toNat + (as.length + bs.length)) s.params.winLen := by omega
  simp only [State.examinedRun, State.examinedVal, hcount, hmin, List.foldl_append, List.length_append, throughputs_add,
    List.append_assoc, BitVec.ofNat_add, BitVec.add_assoc]

/-- The outside but for the LOG is untouched by an examined byte. -/
theorem State.examine_ext (s : State) (b : Byte) :
    (s.examine b).ext = { s.ext with log := (s.examine b).ext.log } := by
  unfold State.examine
  dsimp only
  unfold State.markThroughput
  split <;> split <;> rfl

theorem throughputs_one (bp : Count) :
    throughputs bp 1 = if (bp + 1).toNat % Config.throughputPeriod = 0 then [.throughput (bp + 1)] else [] := by
  split
  · next h => exact List.filterMap_cons_some (if_pos h)
  · next h => exact List.filterMap_cons_none (if_neg h)

/-- States are equal part by part. -/
theorem State.eq_of_parts (hparams : s.params = t.params) (hring : s.ring = t.ring) (hval : s.val = t.val)
    (hdiag : s.diag = t.diag) (hctl : s.ctl = t.ctl) (hregs : s.regs = t.regs) (hext : s.ext = t.ext) : s = t := by
  cases s
  simp_all

/-- One byte examined is a run of one byte, and perhaps a capture (R237). -/
theorem State.examine_eq (s : State) (b : Byte) :
    s.examine b = { s.examinedRun [b] (b + 1) with diag := (s.examine b).diag } := by
  have hval : (s.examine b).val = s.examinedVal [b] (b + 1) := by
    have heta (v : Validator) : v = ⟨v.expected, v.win, v.winCount, v.bytesProcessed⟩ := rfl
    rw [heta (s.examine b).val, s.examine_expected, s.examine_win, s.examine_winCount, s.examine_bytesProcessed]
    rfl
  have hext : (s.examine b).ext = { s.ext with log := s.ext.log ++ throughputs s.val.bytesProcessed 1 } := by
    rw [s.examine_ext, s.examine_log, throughputs_one]
  exact State.eq_of_parts (s.examine_params b) (s.examine_ring b) hval rfl (s.examine_ctl b) (s.examine_regs b) hext

/-- An empty run changes nothing but the expected byte. -/
theorem State.InvAside.examinedRun_nil (h : s.InvAside) : s.examinedRun [] s.val.expected = s := by
  obtain ⟨-, hcount, -⟩ : windowOk s.params.winLen s.val.win s.val.winCount := h.window_ok
  have hwin : BitVec.ofNat 32 (min s.val.winCount.toNat s.params.winLen) = s.val.winCount := by
    rw [Nat.min_eq_left hcount, BitVec.ofNat_toNat, BitVec.setWidth_eq]
  refine State.eq_of_parts rfl rfl ?_ rfl rfl rfl ?_
  · simp [State.examinedRun, State.examinedVal, hwin]
  · simp [State.examinedRun, throughputs]

/-- Matching bytes are examined without a capture, and the sequence goes on after the last (R171). -/
theorem State.InvAside.foldl_examine_match (h : s.InvAside) {bs : List Byte}
    (hm : matchLen s.val.expected bs = bs.length) :
    bs.foldl State.examine s = s.examinedRun bs (s.val.expected + BitVec.ofNat 8 bs.length) := by
  induction bs generalizing s with
  | nil => simpa using h.examinedRun_nil.symm
  | cons b bs ih =>
    rw [matchLen] at hm
    split at hm
    · next hb =>
      have hone : s.examine b = s.examinedRun [b] (b + 1) := by
        rw [s.examine_eq, s.examine_diag_match b hb]
        rfl
      have hrest := ih (h.examine b) (by rw [s.examine_expected, hb]; simpa using hm)
      have hnext : b + 1 + BitVec.ofNat 8 bs.length = s.val.expected + BitVec.ofNat 8 (b :: bs).length := by
        rw [hb, List.length_cons, Nat.add_comm bs.length 1, BitVec.ofNat_add, BitVec.add_assoc]
        rfl
      rw [List.foldl_cons, hrest, s.examine_expected, hnext, hone,
        State.examinedRun_examinedRun h.winLen_le]
      rfl
    · simp at hm

/-- Up to and with the first mismatch: the run, and a capture with the context of after the last byte (R172, R173). -/
theorem State.InvAside.foldl_examine_mismatch (h : s.InvAside) {bs : List Byte} {b : Byte}
    (hm : matchLen s.val.expected bs = bs.length) (hb : b ≠ s.val.expected + BitVec.ofNat 8 bs.length) :
    (bs ++ [b]).foldl State.examine s = { s.examinedRun (bs ++ [b]) (b + 1) with
      diag :=
        let v := s.examinedVal (bs ++ [b]) (b + 1)
        ⟨true, s.val.expected + BitVec.ofNat 8 bs.length, b, s.ring.head, s.ring.used, Params.capWord s.params,
          v.bytesProcessed, v.win, v.winCount⟩ } := by
  have hrun := State.examinedRun_examinedRun h.winLen_le bs [b]
    (s.val.expected + BitVec.ofNat 8 bs.length) (b + 1)
  rw [List.foldl_append, h.foldl_examine_match hm, List.foldl_cons, List.foldl_nil, State.examine_eq,
    State.examine_diag_mismatch _ _ hb, State.examine_eq, hrun]
  rfl

end

end Sys2Proof.Machine

/-! PROOFS. O45: the spans of a process step, and the step itself. -/

namespace Sys2Proof.Machine

section
variable {s t : State} {loops : Bool}

/-! ### The ring of a process step (R115, R119, R174) -/

/-- `RingTake` without a destination, also for no bytes (R115, R174). -/
theorem State.RingInv.ringDrop_eq (h : s.RingInv) {n : Nat} (hn : n ≤ s.ring.used.toNat) :
    ringDrop s n = { s with ring := s.flushedRing n } := by
  unfold ringDrop
  split
  · next h0 =>
    subst h0
    obtain ⟨hhead, hused⟩ := h.toNat_ringDrop hn
    have hring : s.flushedRing 0 = s.ring := by
      rw [State.flushedRing, ← hhead, Nat.sub_zero]
      simp [ringDrop]
    rw [hring]
  · rfl

/-- Flushing takes the oldest bytes off the contents (R115, R174). -/
theorem State.RingInv.contents_flushed (h : s.RingInv) {n : Nat} (hn : n ≤ s.ring.used.toNat)
    (hring : t.ring = s.flushedRing n) (hparams : t.params = s.params) : t.contents = s.contents.drop n := by
  rw [← h.contents_ringDrop hn, h.ringDrop_eq hn]
  exact State.contents_congr hring hparams

/-- The first span of a buffer that is not empty holds a byte (R119). -/
theorem State.RingInv.spanLength_pos (h : s.RingInv) (hu : 0 < s.ring.used.toNat) : 0 < s.spanLength := by
  have hle := h.used_le_cap
  have hlt := h.head_lt_cap (by omega)
  rw [State.spanLength, if_neg (by omega)]
  omega

/-- The span ends with the data or at the end of the store (R119). -/
theorem State.RingInv.spanLength_cases (h : s.RingInv) :
    s.spanLength = s.ring.used.toNat ∨
      s.spanLength < s.ring.used.toNat ∧ s.ring.head.toNat + s.spanLength = s.params.cap := by
  have hle := h.used_le_cap
  have hlt := h.head_lt_cap
  unfold State.spanLength
  split <;> omega

theorem State.RingInv.head_add_spanLength_le (h : s.RingInv) : s.ring.head.toNat + s.spanLength ≤ s.params.cap := by
  have hle := h.used_le_cap
  have hlt := h.head_lt_cap
  have hz : s.params.cap = 0 → s.ring.head.toNat = 0 := fun hc => by simp [h.head_zero hc]
  unfold State.spanLength
  split <;> omega

/-- The bytes of the first span are the oldest of the contents (R13, R119). -/
theorem State.RingInv.storeBytes_span (h : s.RingInv) :
    s.storeBytes s.ring.head.toNat s.spanLength = s.contents.take s.spanLength := by
  have hspan := h.head_add_spanLength_le
  have hle := s.spanLength_le
  apply List.ext_getElem
  · simp [State.storeBytes, hle]
  · intro k hk hk'
    have hlt : k < s.spanLength := by simpa [State.storeBytes] using hk
    have hidx : s.ringIndex k = s.ring.head.toNat + k := Nat.mod_eq_of_lt (by omega)
    rw [List.getElem_take, State.contents_getElem, State.ringByte, hidx]
    simp [State.storeBytes]

/-! ### One span (R170 to R174) -/

/-- The state after `k` matching bytes, examined and flushed. -/
def State.examinedMatch (s : State) (k : Nat) : State :=
  { s.examinedRun (s.contents.take k) (s.val.expected + BitVec.ofNat 8 k) with ring := s.flushedRing k }

theorem State.Working.foldl_examine (h : s.Working loops) (bs : List Byte) :
    (bs.foldl State.examine s).Working loops ∧ (bs.foldl State.examine s).ring = s.ring := by
  induction bs generalizing s with
  | nil => exact ⟨h, rfl⟩
  | cons b bs ih =>
    obtain ⟨hw, hring⟩ := ih (h.examine b)
    exact ⟨hw, hring.trans (s.examine_ring b)⟩

/-- Bytes examined one by one and then flushed. -/
theorem State.Working.ringDrop_foldl_examine (h : s.Working loops) (bs : List Byte) {k : Nat}
    (hk : k ≤ s.ring.used.toNat) :
    ringDrop (bs.foldl State.examine s) k = { bs.foldl State.examine s with ring := s.flushedRing k } ∧
      (ringDrop (bs.foldl State.examine s) k).Working loops := by
  obtain ⟨hw, hring⟩ := h.foldl_examine bs
  have hku : k ≤ (bs.foldl State.examine s).ring.used.toNat := by rwa [hring]
  refine ⟨?_, hw.drop hku⟩
  rw [hw.aside.ringInv.ringDrop_eq hku]
  simp only [State.flushedRing, State.ringIndex, hring, foldl_examine_params]

/-- A span that matches is examined whole (R171). -/
theorem examineSpan_match (h : s.Working loops) (hm : s.spanLength ≤ matchLen s.val.expected s.contents) :
    ∃ u, examineSpan s.spanLength s.ring.head.toNat 0 s = .ok (s.spanLength, false, u) ∧
      ringDrop u s.spanLength = s.examinedMatch s.spanLength ∧ (s.examinedMatch s.spanLength).Working loops := by
  have hr := h.aside.ringInv
  have hle := s.spanLength_le
  have hlen : (s.contents.take s.spanLength).length = s.spanLength := by simp [hle]
  have hmatch : matchLen s.val.expected (s.contents.take s.spanLength) = s.spanLength := by
    rw [matchLen_take]; omega
  have hexamined : examinedLen s.val.expected (s.contents.take s.spanLength) = s.spanLength := by
    simp [examinedLen, hmatch, hlen]
  obtain ⟨hdrop, hworking⟩ := h.ringDrop_foldl_examine (s.contents.take s.spanLength) hle
  have heq : ringDrop ((s.contents.take s.spanLength).foldl State.examine s) s.spanLength =
      s.examinedMatch s.spanLength := by
    rw [hdrop, h.aside.foldl_examine_match (hmatch.trans hlen.symm), hlen]
    rfl
  refine ⟨_, ?_, heq, heq ▸ hworking⟩
  rw [examineSpan_ok _ _ _ _ hr.head_add_spanLength_le, hr.storeBytes_span, hmatch, hexamined, Nat.zero_add, List.take_take,
    Nat.min_self, decide_eq_false (Nat.lt_irrefl _)]

/-- The end of a step whose first mismatch lies in the first span: the capture of its last byte, the flush, MISMATCH and the
record (R172 to R176). -/
theorem State.Working.examinedTo_eq (h : s.Working loops) {m : Nat} {b : Byte}
    (hm : matchLen s.val.expected s.contents = m) (hb : s.contents[m]? = some b) (hlt : m < s.spanLength) :
    let u := ringDrop ((s.contents.take (m + 1)).foldl State.examine s) (m + 1)
    State.emit { u with ctl.mismatch := true } u.mismatchRecord = s.examinedTo m b := by
  intro u
  have hle := s.spanLength_le
  have hspan := h.aside.ringInv.head_add_spanLength_le
  have hin : s.ring.head.toNat + m < s.params.cap := by omega
  have hne : b ≠ s.val.expected + BitVec.ofNat 8 m := by
    subst hm
    exact ne_of_getElem?_matchLen hb
  have hbytes : s.contents.take (m + 1) = s.contents.take m ++ [b] := by
    rw [List.take_add_one, hb]
    rfl
  have htake : (s.contents.take m).length = m := by
    simp only [List.length_take, State.contents_length]
    omega
  have hlen : (s.contents.take m ++ [b]).length = m + 1 := by simp [htake]
  have hmatch : matchLen s.val.expected (s.contents.take m) = (s.contents.take m).length := by
    rw [matchLen_take, htake]; omega
  have hu : u = { (s.contents.take (m + 1)).foldl State.examine s with ring := s.flushedRing (m + 1) } :=
    (h.ringDrop_foldl_examine _ (by omega)).1
  rw [hu, hbytes, h.aside.foldl_examine_mismatch hmatch (by rwa [htake]), htake]
  simp only [State.examinedTo, if_pos hin, State.examinedRun, hlen, hbytes]
  rfl

/-- A span with a mismatch is examined up to and with it, and the step ends there under both policies (R172 to R177). -/
theorem examineSpan_mismatch (h : s.Working loops) {m : Nat} {b : Byte}
    (hm : matchLen s.val.expected s.contents = m) (hb : s.contents[m]? = some b) (hlt : m < s.spanLength) :
    ∃ u, examineSpan s.spanLength s.ring.head.toNat 0 s = .ok (m + 1, true, u) ∧
      ∀ fatal word total, processMismatch fatal word total (ringDrop u (m + 1)) =
        if fatal then .fatal ((s.examinedTo m b).terminate .validationMismatch .validationMismatch word)
        else .done total (s.examinedTo m b) := by
  have hr := h.aside.ringInv
  have hle := s.spanLength_le
  have htake : matchLen s.val.expected (s.contents.take s.spanLength) = m := by
    rw [matchLen_take]; omega
  have hexamined : examinedLen s.val.expected (s.contents.take s.spanLength) = m + 1 := by
    rw [examinedLen, htake, if_pos]
    simp only [List.length_take, State.contents_length]
    omega
  refine ⟨(s.contents.take (m + 1)).foldl State.examine s, ?_, fun fatal word total => ?_⟩
  · rw [examineSpan_ok _ _ _ _ hr.head_add_spanLength_le, hr.storeBytes_span, htake, hexamined, Nat.zero_add,
      List.take_take, Nat.min_eq_left (by omega), decide_eq_true hlt]
  · unfold processMismatch
    rw [h.examinedTo_eq hm hb hlt]

/-! ### One span after another (R170, R176) -/

/-- The ring after flushing in two parts (R115). -/
theorem State.RingInv.flushedRing_add (h : s.RingInv) {j k : Nat} (hj : j ≤ s.ring.used.toNat)
    (hring : t.ring = s.flushedRing j) (hparams : t.params = s.params) : t.flushedRing k = s.flushedRing (j + k) := by
  obtain ⟨hhead, hused⟩ := h.toNat_ringDrop hj
  rw [h.ringDrop_eq hj] at hhead hused
  have hidx : t.ringIndex k = s.ringIndex (j + k) := by
    rw [State.ringIndex, hring, hhead, hparams]
    simp [State.ringIndex, Nat.add_assoc]
  rw [State.flushedRing, hidx, hring, hused, Nat.sub_sub]
  rfl

theorem State.RingInv.contents_examinedMatch (h : s.RingInv) {j : Nat} (hj : j ≤ s.ring.used.toNat) :
    (s.examinedMatch j).contents = s.contents.drop j := h.contents_flushed hj rfl rfl

theorem State.RingInv.used_examinedMatch (h : s.RingInv) {j : Nat} (hj : j ≤ s.ring.used.toNat) :
    (s.examinedMatch j).ring.used.toNat = s.ring.used.toNat - j := by
  rw [← State.contents_length, h.contents_examinedMatch hj, List.length_drop, State.contents_length]

/-- After a matching part the match goes on in the bytes left (R171). -/
theorem State.RingInv.matchLen_examinedMatch (h : s.RingInv) {j : Nat} (hj : j ≤ matchLen s.val.expected s.contents) :
    matchLen (s.examinedMatch j).val.expected (s.examinedMatch j).contents = matchLen s.val.expected s.contents - j := by
  rw [h.contents_examinedMatch (hj.trans ((matchLen_le _ _).trans s.contents_length.le))]
  exact matchLen_drop hj

theorem State.InvAside.examinedMatch_zero (h : s.InvAside) : s.examinedMatch 0 = s := by
  have hring := h.ringInv.ringDrop_eq (Nat.zero_le _)
  have hrun := h.examinedRun_nil
  have hzero : s.val.expected + BitVec.ofNat 8 0 = s.val.expected := BitVec.add_zero _
  rw [State.examinedMatch, List.take_zero, hzero, hrun, ← hring]
  rfl

/-- A run of `bs` after a matching part is a run from the start. -/
theorem State.Working.examinedRun_examinedMatch (h : s.Working loops) {j : Nat} (hj : j ≤ s.ring.used.toNat)
    (k : Nat) (e : Byte) :
    (s.examinedMatch j).examinedRun ((s.examinedMatch j).contents.take k) e =
      { s.examinedRun (s.contents.take (j + k)) e with ring := s.flushedRing j } := by
  have hwin := h.aside.winLen_le
  have hrun := State.examinedRun_examinedRun hwin (s.contents.take j) ((s.contents.drop j).take k)
    (s.val.expected + BitVec.ofNat 8 j) e
  rw [h.aside.ringInv.contents_examinedMatch hj, List.take_add, ← hrun]
  rfl

theorem State.Working.examinedMatch_examinedMatch (h : s.Working loops) {j : Nat} (hj : j ≤ s.ring.used.toNat) (k : Nat) :
    (s.examinedMatch j).examinedMatch k = s.examinedMatch (j + k) := by
  have hnext : (s.examinedMatch j).val.expected + BitVec.ofNat 8 k = s.val.expected + BitVec.ofNat 8 (j + k) := by
    rw [BitVec.ofNat_add, ← BitVec.add_assoc]
    rfl
  rw [State.examinedMatch, h.examinedRun_examinedMatch hj, hnext,
    h.aside.ringInv.flushedRing_add (t := s.examinedMatch j) hj rfl rfl]
  rfl

/-- After a matching first span a mismatch lies in the second, which starts at index 0 (R119, R173, R176). -/
theorem State.Working.examinedTo_examinedMatch (h : s.Working loops) {k : Nat} (hk : s.spanLength + k < s.ring.used.toNat)
    (b : Byte) : (s.examinedMatch s.spanLength).examinedTo k b = s.examinedTo (s.spanLength + k) b := by
  have hr := h.aside.ringInv
  have hle := s.spanLength_le
  have hcap := hr.used_le_cap
  obtain hall | ⟨-, hend⟩ := hr.spanLength_cases
  · omega
  have hrun := h.examinedRun_examinedMatch hle (k + 1) (b + 1)
  have hring : (s.examinedMatch s.spanLength).flushedRing (k + 1) = s.flushedRing (s.spanLength + (k + 1)) :=
    hr.flushedRing_add hle rfl rfl
  have hcontents := hr.contents_examinedMatch hle
  generalize hu : s.examinedMatch s.spanLength = u at *
  have hparams : u.params = s.params := by rw [← hu]; rfl
  have hhead : u.ring.head = 0 := by
    rw [← hu]
    change BitVec.ofNat 32 ((s.ring.head.toNat + s.spanLength) % s.params.cap) = 0
    rw [hend, Nat.mod_self]
    rfl
  have hused : u.ring.used = BitVec.ofNat 32 (s.ring.used.toNat - (s.params.cap - s.ring.head.toNat)) := by
    rw [← hu, ← hend, Nat.add_sub_cancel_left]
    rfl
  have hexp : u.val.expected + BitVec.ofNat 8 k = s.val.expected + BitVec.ofNat 8 (s.spanLength + k) := by
    rw [← hu, BitVec.ofNat_add, ← BitVec.add_assoc]
    rfl
  have hval : u.examinedVal (u.contents.take (k + 1)) (b + 1) =
      s.examinedVal (s.contents.take (s.spanLength + (k + 1))) (b + 1) := congrArg State.val hrun
  have hlog : u.ext.log ++ throughputs u.val.bytesProcessed (k + 1) =
      s.ext.log ++ throughputs s.val.bytesProcessed (s.spanLength + (k + 1)) := by
    have hext := congrArg (·.ext.log) hrun
    have hlen : min (k + 1) (s.ring.used.toNat - s.spanLength) = k + 1 := by omega
    have hlen' : min (s.spanLength + (k + 1)) s.ring.used.toNat = s.spanLength + (k + 1) := by omega
    simpa [State.examinedRun, hcontents, hlen, hlen'] using hext
  have hin : (0 : Word).toNat + k < s.params.cap := by
    change 0 + k < s.params.cap
    omega
  have hout : ¬ s.ring.head.toNat + (s.spanLength + k) < s.params.cap := by omega
  refine State.eq_of_parts hparams hring hval ?_ ?_ ?_ ?_
  · simp only [State.examinedTo, if_pos hin, if_neg hout, hval, hexp, hhead, hused, hparams, Nat.add_assoc]
  · rw [← hu]; rfl
  · rw [← hu]; rfl
  · simp only [State.examinedTo, if_pos hin, if_neg hout, hval, hlog, hexp, hhead, hused, hparams, Nat.add_assoc]
    rw [← hu]
    rfl

/-! ### All spans (R170, R176, R177) -/

variable (fatal : Bool) (word : Word)

/-- Without a mismatch all bytes are examined and flushed (R171, R176). -/
theorem processSpans_match (h : s.Working loops) {fuel : Nat} (total : Nat) (hf : s.ring.used.toNat < fuel)
    (hm : matchLen s.val.expected s.contents = s.ring.used.toNat) :
    processSpans fatal word fuel total s = .done (total + s.ring.used.toNat) (s.examinedMatch s.ring.used.toNat) := by
  induction fuel generalizing total s with
  | zero => omega
  | succ fuel ih =>
    have hr := h.aside.ringInv
    have hle := s.spanLength_le
    by_cases hu : s.ring.used.toNat = 0
    · rw [processSpans, if_pos (by omega), hu, h.aside.examinedMatch_zero, Nat.add_zero]
    · have hpos := hr.spanLength_pos (Nat.pos_of_ne_zero hu)
      obtain ⟨u, hspan, hdrop, hworking⟩ := examineSpan_match h (by omega)
      have hused := hr.used_examinedMatch hle
      have hmatch := hr.matchLen_examinedMatch (j := s.spanLength) (by omega)
      rw [hm, ← hused] at hmatch
      rw [processSpans, if_neg (by omega), hspan]
      change processSpans fatal word fuel (total + s.spanLength) (ringDrop u s.spanLength) = _
      rw [hdrop, ih hworking (total + s.spanLength) (by omega) hmatch, h.examinedMatch_examinedMatch hle, hused,
        Nat.add_assoc, Nat.add_sub_cancel' hle]

/-- A process step ends at its first mismatch (R172, R174, R177). -/
theorem processSpans_mismatch (h : s.Working loops) {fuel m : Nat} {b : Byte} (total : Nat) (hf : s.ring.used.toNat < fuel)
    (hm : matchLen s.val.expected s.contents = m) (hb : s.contents[m]? = some b) :
    processSpans fatal word fuel total s =
      if fatal then .fatal ((s.examinedTo m b).terminate .validationMismatch .validationMismatch word)
      else .done (total + (m + 1)) (s.examinedTo m b) := by
  induction fuel generalizing total s m with
  | zero => omega
  | succ fuel ih =>
    have hr := h.aside.ringInv
    have hle := s.spanLength_le
    have hlt : m < s.ring.used.toNat := by
      obtain ⟨hlt, -⟩ := List.getElem?_eq_some_iff.mp hb
      simpa using hlt
    have hpos := hr.spanLength_pos (by omega)
    rw [processSpans, if_neg (by omega)]
    by_cases hfirst : m < s.spanLength
    · obtain ⟨u, hspan, hend⟩ := examineSpan_mismatch h hm hb hfirst
      rw [hspan]
      exact hend fatal word _
    · obtain ⟨k, rfl⟩ := Nat.exists_eq_add_of_le (Nat.not_lt.mp hfirst)
      obtain ⟨u, hspan, hdrop, hworking⟩ := examineSpan_match h (by omega)
      have hused := hr.used_examinedMatch hle
      have hmatch := hr.matchLen_examinedMatch (j := s.spanLength) (by omega)
      rw [hm, Nat.add_sub_cancel_left] at hmatch
      have hbyte : (s.examinedMatch s.spanLength).contents[k]? = some b := by
        rw [hr.contents_examinedMatch hle, List.getElem?_drop]
        exact hb
      rw [hspan]
      change processSpans fatal word fuel (total + s.spanLength) (ringDrop u s.spanLength) = _
      rw [hdrop, ih hworking (total + s.spanLength) (by omega) hmatch hbyte, h.examinedTo_examinedMatch hlt]
      simp only [Nat.add_assoc]

variable (config : Word)

/-- All bytes examined and flushed as one matching part (R171). -/
theorem State.examinedMatch_used (s : State) :
    { s.examinedMatch s.ring.used.toNat with ctl.mismatch := false } = s.examinedAll := by
  have htake : s.contents.take s.ring.used.toNat = s.contents := List.take_of_length_le s.contents_length.le
  simp only [State.examinedMatch, State.examinedRun, State.examinedAll, htake, State.contents_length]

/-- The process step over matching data (R170, R171). -/
theorem processBody_match (h : s.Working loops) (hm : matchLen s.val.expected s.contents = s.ring.used.toNat) :
    processBody config word s = .done s.ring.used.toNat s.examinedAll := by
  have hstart : State.Working loops { s with ctl.mismatch := false } := { h with aside := h.aside.with_mismatch false nofun }
  have hspans := processSpans_match (mismatchFatal config) word hstart 0 (Nat.lt_succ_self _) hm
  rw [Nat.zero_add] at hspans
  rw [← s.examinedMatch_used]
  exact hspans

/-- The process step up to its first mismatch, under both policies (R170, R172 to R177). -/
theorem processBody_mismatch (h : s.Working loops) {m : Nat} {b : Byte} (hm : matchLen s.val.expected s.contents = m)
    (hb : s.contents[m]? = some b) :
    processBody config word s =
      if mismatchFatal config then .fatal ((s.examinedTo m b).terminate .validationMismatch .validationMismatch word)
      else .done (m + 1) (s.examinedTo m b) := by
  have hstart : State.Working loops { s with ctl.mismatch := false } := { h with aside := h.aside.with_mismatch false nofun }
  have hspans := processSpans_mismatch (mismatchFatal config) word hstart 0 (Nat.lt_succ_self _) hm hb
  rwa [Nat.zero_add] at hspans

/-- The data matches whole, or has a first mismatch. -/
theorem State.match_cases (s : State) :
    matchLen s.val.expected s.contents = s.ring.used.toNat ∨
      ∃ b, s.contents[matchLen s.val.expected s.contents]? = some b := by
  have hle := matchLen_le s.val.expected s.contents
  rcases Nat.eq_or_lt_of_le hle with heq | hlt
  · exact .inl (heq.trans s.contents_length)
  · exact .inr ⟨_, List.getElem?_eq_getElem hlt⟩

end

/-- Settles O45: LOOP.RUN's step is the process step in a working state; it differs from SV.PROCESS in how it goes on. -/
theorem loopProcessStep : Obligations.LoopProcessStep := by
  intro s h hp
  have hw : s.Working true := h.working_of_busy (by rw [State.isBusy, hp]; rfl) fun _ => by rw [hp]; rfl
  have hr := h.ringInv
  have hmove : coreMove s = runProcessFinish (processBody s.ctl.loopConfig 0x31000000 s) := by
    rw [coreMove, hp]
    rfl
  refine ⟨fun hm => ⟨?_, ?_⟩, fun m b hm hb => ⟨?_, fun hc => ?_, fun hc => ?_⟩⟩
  · rw [hr.contents_flushed (t := s.examinedAll) (Nat.le_refl _) rfl rfl]
    simp
  · rw [hmove, processBody_match _ _ hw hm]
    rfl
  · obtain ⟨hlt, -⟩ := List.getElem?_eq_some_iff.mp hb
    exact hr.contents_flushed (by simpa using hlt) rfl rfl
  · rw [hmove, processBody_mismatch _ _ hw hm hb, mismatchFatal, hc]
    rfl
  · rw [hmove, processBody_mismatch _ _ hw hm hb, mismatchFatal, hc]
    rfl

end Sys2Proof.Machine

/-! PROOFS. O11, O31: no step leaves a space (R61); with CAP = 0 no step moves a byte (R273). -/

namespace Sys2Proof.Machine

/-- The outcome is no fault of the model (R61). -/
def Out.InBounds : Out → Prop
  | .next _ => True
  | .fault _ => False
  | .refused _ => True

/-- The drain check met no fault of the model (R61). -/
def DrainResult.InBounds : DrainResult → Prop
  | .done _ _ => True
  | .fatal _ => True
  | .block _ => True
  | .broken _ => False

/-- The process step met no fault of the model (R61). -/
def ProcessResult.InBounds : ProcessResult → Prop
  | .done _ _ => True
  | .fatal _ => True
  | .broken _ => False

theorem Out.sound_iff (o : Out) : o.InBounds ↔ ∀ f, o ≠ .fault f := by
  cases o <;> simp [Out.InBounds]

section
variable {s : State} {loops : Bool}

/-! ### The common checks (R235) -/

theorem acceptCmd_inBounds {w : Word} {body : Out} (hb : s.ctl.phase = .idle → body.InBounds) :
    (acceptCmd w s body).InBounds := by
  rcases s.phase_cases with hi | ⟨hbusy, -⟩ | ⟨ht, -⟩
  · rw [acceptCmd_idle _ _ hi]; exact hb hi
  · rw [acceptCmd_busy _ _ hbusy]; trivial
  · rw [acceptCmd_terminated _ _ ht]; trivial

theorem commonChecks_inBounds {i : Instr} {body : Out} (hb : s.ctl.phase = .idle → violated i s = none → body.InBounds) :
    (commonChecks i s body).InBounds := by
  refine acceptCmd_inBounds fun hi => ?_
  cases hv : violated i s with
  | none => exact hb hi hv
  | some c => trivial

/-- For a command that needs INIT and mutates, other than RB.FLUSH, the body starts from a working state. -/
theorem commonChecks_inBounds_working {i : Instr} {body : Out} (h : s.Inv) (hn : needsInit i = true) (hm : mutates i = true)
    (hf : isFlush i = false) (hb : s.Working false → body.InBounds) : (commonChecks i s body).InBounds :=
  commonChecks_inBounds fun hi hv =>
    have ⟨hinit, _, hspan⟩ := violated_none hv
    hb ⟨h.aside (by simp [hi]), hinit hn, hspan hm hf, nofun⟩

/-! ### The drain check and the process step -/

theorem drainCheck_inBounds (word : Word) (h : s.Working loops) : (drainCheck word s).InBounds := by
  rcases drainCheck_cases word s with ⟨-, -, heq⟩ | ⟨-, hallowed, heq⟩ | ⟨-, heq⟩ <;> rw [heq]
  · trivial
  · obtain ⟨hrun, -⟩ := (runAllowed_iff _ _ _).mp hallowed
    obtain ⟨t, ht, -⟩ := drainTransfer_admits h.askUpstream.aside.ringInv hrun
    rw [ht]
    trivial
  · have hflag := Params.ovfOffset_lt h.aside.params_ok
    rcases drainIdle_cases word s.askUpstream hflag with ⟨-, -, hidle⟩ | ⟨-, -, hidle⟩ | ⟨-, hidle⟩
    · rw [hidle]; trivial
    · rw [hidle]; trivial
    · rw [hidle]; trivial

theorem drainFinish_inBounds {r : DrainResult} (h : r.InBounds) : (drainFinish r).InBounds := by
  cases r <;> exact h

theorem runDrainFinish_inBounds {r : DrainResult} (h : r.InBounds) : (runDrainFinish r).InBounds := by
  cases r <;> exact h

theorem processBody_inBounds (config word : Word) (h : s.Working loops) : (processBody config word s).InBounds := by
  rcases s.match_cases with hm | ⟨b, hb⟩
  · rw [processBody_match _ _ h hm]; trivial
  · rw [processBody_mismatch _ _ h rfl hb]
    split <;> trivial

theorem processFinish_inBounds {r : ProcessResult} (h : r.InBounds) : (processFinish r).InBounds := by
  cases r <;> exact h

theorem runProcessFinish_inBounds {r : ProcessResult} (h : r.InBounds) : (runProcessFinish r).InBounds := by
  cases r <;> exact h

/-! ### The commands -/

theorem hostRangeOk_iff (a n : Nat) : hostRangeOk a n = true ↔ n = 0 ∨ a + n ≤ 2 ^ Config.hostAw := by
  have hpos : 0 < 2 ^ Config.hostAw := Nat.two_pow_pos _
  simp only [hostRangeOk, Bool.or_eq_true, decide_eq_true_eq]
  omega

/-- A host range that is allowed, or empty, ends inside host memory (R63, R112). -/
theorem add_le_of_hostRangeOk {a : Word} {n : Nat} (h : hostRangeOk a.toNat n = true) :
    a.toNat + n ≤ 2 ^ Config.hostAw := by
  rcases (hostRangeOk_iff _ _).mp h with rfl | hle
  · exact a.isLt.le
  · exact hle

theorem execRbWrite_inBounds (len : Word) (h : s.Inv) : (execRbWrite len s).InBounds := by
  refine commonChecks_inBounds_working h rfl rfl rfl fun _ => ?_
  dsimp only
  split
  · next hrange =>
    rw [readRun_memRead s _ _ (add_le_of_hostRangeOk hrange)]
    obtain ⟨t, ht⟩ := ringPut_answers (s := s) (bytes := s.sourceBytes (s.accepted len.toNat))
      (by simpa [State.sourceBytes] using s.accepted_le len.toNat)
    rw [State.sourceBytes] at ht
    simp only [ht]
    trivial
  · trivial

theorem execRbRead_inBounds (len : Word) (h : s.Inv) : (execRbRead len s).InBounds := by
  refine commonChecks_inBounds_working h rfl rfl rfl fun _ => ?_
  dsimp only
  split
  · next hrange =>
    have hn : s.available len.toNat ≤ s.params.cap := (Nat.min_le_right _ _).trans h.used_le_cap
    rw [ringPeek_ok s _ h.headOk hn]
    dsimp only
    rw [writeRun_memWrite s _ _ (by simpa using add_le_of_hostRangeOk hrange)]
    trivial
  · trivial

theorem execOsRead_inBounds (h : s.Inv) : (execOsRead s).InBounds := by
  refine commonChecks_inBounds fun _ _ => ?_
  rw [fifoRead, if_pos (Params.ovfOffset_lt h.params_ok)]
  trivial

/-- No command leaves a space. -/
theorem exec_inBounds (i : Instr) (h : s.Inv) : Out.InBounds (exec i s) := by
  cases i with
  | rbInit => exact commonChecks_inBounds fun _ _ => by split <;> trivial
  | rbWrite len => exact execRbWrite_inBounds len h
  | rbRead len => exact execRbRead_inBounds len h
  | rbFlush len => exact commonChecks_inBounds fun _ _ => by split <;> trivial
  | rbSpan => exact commonChecks_inBounds fun _ _ => trivial
  | rbClear => exact commonChecks_inBounds fun _ _ => trivial
  | rbCap => exact commonChecks_inBounds fun _ _ => trivial
  | rbUsed => exact commonChecks_inBounds fun _ _ => trivial
  | rbFree => exact commonChecks_inBounds fun _ _ => trivial
  | rbEmpty => exact commonChecks_inBounds fun _ _ => trivial
  | rbFull => exact commonChecks_inBounds fun _ _ => trivial
  | fcDrain =>
    refine commonChecks_inBounds_working h rfl rfl rfl fun hw => ?_
    split
    · trivial
    · exact drainFinish_inBounds (drainCheck_inBounds _ hw)
  | svProcess => exact commonChecks_inBounds_working h rfl rfl rfl fun hw =>
    processFinish_inBounds (processBody_inBounds _ _ hw)
  | osRead => exact execOsRead_inBounds h
  | loopStart => exact commonChecks_inBounds fun _ _ => trivial
  | loopRun => exact commonChecks_inBounds fun _ _ => trivial

theorem issue_inBounds (w : Word) (h : s.Inv) : (issue w s).InBounds := by
  cases hd : decode w with
  | ok i => rw [issue_decoded hd]; exact exec_inBounds i h
  | error e => rw [issue_illegal hd]; exact acceptCmd_inBounds fun _ => trivial

/-! ### The agents' turns -/

theorem waitStep_inBounds (s : State) : (waitStep s).InBounds := by
  unfold waitStep
  split <;> trivial

theorem coreMove_inBounds (h : s.Inv) : (coreMove s).InBounds := by
  have hworking (hb : s.ctl.phase.busy = true) : s.Working false := h.working_of_busy hb nofun
  unfold coreMove
  cases hp : s.ctl.phase with
  | idle => trivial
  | terminated => trivial
  | drainWait => exact waitStep_inBounds s
  | runWait => exact waitStep_inBounds s
  | drainCheck => exact drainFinish_inBounds (drainCheck_inBounds _ (hworking (by rw [hp]; rfl)))
  | runDrain =>
    dsimp only
    unfold runDrainStep
    split
    · trivial
    · exact runDrainFinish_inBounds (drainCheck_inBounds _ (hworking (by rw [hp]; rfl)))
  | runProcess => exact runProcessFinish_inBounds (processBody_inBounds _ _ (hworking (by rw [hp]; rfl)))

theorem hostWrite_inBounds (size : AccessSize) (off : Nat) (v : Word) (h : s.Inv) : (hostWrite size off v s).InBounds := by
  unfold hostWrite
  split
  · trivial
  · exact issue_inBounds v h
  · trivial

theorem hostFlush_inBounds (n : Word) (rest : List HostAction) (h : s.Inv) : (hostFlush n rest s).InBounds := by
  rcases hostFlush_cases n rest s with ⟨-, heq⟩ | ⟨-, heq⟩ <;> rw [heq] <;> exact issue_inBounds _ (h.setProg _)

/-- Every 32-bit address is one of host memory, so the host's own accesses stay inside it (R63). -/
theorem hostMove_inBounds (h : s.Inv) : (hostMove s).InBounds := by
  unfold hostMove
  split
  · trivial
  · exact hostWrite_inBounds _ _ _ (h.setProg _)
  · unfold hostRead
    split <;> trivial
  · trivial
  · unfold hostReadWindow
    split <;> trivial
  · next a b rest _ =>
    have ha : a.toNat < 2 ^ Config.hostAw := a.isLt
    simp only [hostStoreMem, memWrite, if_pos ha]
    trivial
  · next a rest _ =>
    have ha : a.toNat < 2 ^ Config.hostAw := a.isLt
    simp only [hostLoadMem, memRead, if_pos ha]
    trivial
  · trivial
  · exact hostFlush_inBounds _ _ h
  · exact hostFlush_inBounds _ _ h

theorem producerMove_inBounds (m : ProducerMove) (s : State) : (producerMove m s).InBounds := by
  cases m with
  | publish ptr len => trivial
  | writeFifo off b =>
    unfold producerMove
    dsimp only
    split <;> trivial
  | notify => trivial

/-- No agent's turn leaves a space. -/
theorem takeTurn_inBounds (a : Turn) (h : s.Inv) : (takeTurn a s).InBounds := by
  cases a with
  | core => exact coreMove_inBounds h
  | host => exact hostMove_inBounds h
  | producer m => exact producerMove_inBounds m s
  | spuriousWake => trivial
  | powerOnReset => trivial

end

/-- Settles O11: the turn starts from a state of the invariant, and none leaves a space from there. -/
theorem noAccessOutsideSpaces : Obligations.NoAccessOutsideSpaces := by
  intro s f h
  exact (Out.sound_iff _).mp (takeTurn_inBounds (currentTurn s) h.popTurn) f

/-! ### O31: no capacity -/

/-- The invariant of a machine without a store: STORE, `head` and `used` have no room (R20, R21, R23). -/
theorem State.Inv.ring_of_cap_zero {s : State} (h : s.Inv) (hc : s.params.cap = 0) :
    s.ring.store = [] ∧ s.ring.head = 0 ∧ s.ring.used = 0 := by
  refine ⟨?_, h.head_zero hc, ?_⟩
  · have hbelow := h.store_below
    rw [hc] at hbelow
    cases hs : s.ring.store with
    | nil => rfl
    | cons c m => simp [hs, Memory.below] at hbelow
  · have hle := h.used_le_cap
    rw [hc] at hle
    exact BitVec.eq_of_toNat_eq (Nat.le_zero.mp hle)

/-- The counter of examined bytes is as in `s` (R28). -/
def State.SameCount (s t : State) : Prop := t.val.bytesProcessed = s.val.bytesProcessed

theorem State.opsKeep_sameCount (s : State) : OpsKeep s.SameCount where
  ring := fun _ h => h
  regs := fun _ h => h
  ext := fun _ _ h => h
  ctl := fun _ _ _ h => h
  emit := fun _ _ h => h

/-- A process step over an empty buffer examines nothing (R119, R170). -/
theorem processBody_empty {s : State} (config word : Word) (hu : s.ring.used = 0) :
    processBody config word s = .done 0 { s with ctl.mismatch := false } := by
  have hspan : State.spanLength { s with ctl.mismatch := false } = 0 := by simp [State.spanLength, hu]
  rw [processBody, processSpans, if_pos hspan]

/-- No step but power-on reset counts a byte where the buffer is empty. -/
theorem takeTurn_sameCount {a : Turn} {s : State} (ha : a ≠ .powerOnReset) (hu : s.ring.used = 0) :
    Out.All s.SameCount (takeTurn a s) := by
  refine s.opsKeep_sameCount.takeTurn ha rfl (fun prog _ => ?_) fun prog config word => ?_
  · simp [State.SameCount]
  · rw [processBody_empty config word (s := s.setProg prog) hu]
    rfl

/-- Settles O31: both states have the invariant, which leaves the ring no room; without a byte none is examined. -/
theorem zeroCapacityNeverIndexes : Obligations.ZeroCapacityNeverIndexes := by
  intro s t h hc ht
  have hct : t.params.cap = 0 := by rw [stepKeepsParameters s t ht, hc]
  obtain ⟨hstore, -, hused⟩ := h.ring_of_cap_zero hc
  obtain ⟨hstore', hhead', hused'⟩ := (stepKeepsInvariant s t h ht).ring_of_cap_zero hct
  refine ⟨hstore'.trans hstore.symm, hhead', hused', State.isEmpty_iff.mpr hused', ?_, ?_⟩
  · simp [State.isFull, hused', hct]
  · split
    · next hturn =>
      rw [step, hturn] at ht
      cases ht
      rfl
    · next hturn => exact Out.all_iff.mp (takeTurn_sameCount (s := popTurn s) hturn hused) t ht

end Sys2Proof.Machine

/-! PROOFS. O1 to O4 and O60: the command word and its decoder, both ways, and the pseudo-instructions. -/

namespace Sys2Proof

/-! ### The two fields of a command word (R90, R91) -/

theorem lenField_append (o : BitVec 8) (l : BitVec 24) : lenField (o ++ l) = l := BitVec.extractLsb'_append_eq_right

/-- A word is its two fields: no bit lies outside them. -/
theorem opcField_append_lenField (w : Word) : opcField w ++ lenField w = w := by
  rw [opcField, lenField, BitVec.extractLsb'_append_extractLsb'_eq_extractLsb' (show 24 = 0 + 24 from rfl)]
  exact BitVec.extractLsb'_eq_self

theorem opcField_encode (i : Instr) : opcField (encode i) = i.opcode := Laws.opcField_append _ _

theorem lenField_encode (i : Instr) : lenField (encode i) = i.len.extractLsb' 0 24 := lenField_append _ _

/-- A command whose opcode and length are the two fields of a word has that word. -/
theorem encode_eq_of_fields {i : Instr} {w : Word} (hopc : i.opcode = opcField w) (hlen : i.len = (lenField w).setWidth 32) :
    encode i = w := by
  have htrunc : i.len.extractLsb' 0 24 = lenField w := by
    rw [hlen, BitVec.extractLsb'_setWidth_of_le (by decide), BitVec.extractLsb'_eq_self]
  rw [encode, hopc, htrunc, opcField_append_lenField]

theorem lenFits_setWidth (l : BitVec 24) : lenFits (l.setWidth 32) = true := by
  have hlt : l.toNat < 2 ^ 24 := l.isLt
  rw [lenFits, BitVec.toNat_setWidth_of_le (by decide)]
  exact decide_eq_true hlt

/-- A length that fits LEN is what the decoder reads back from its low 24 bits (R91, R96). -/
theorem setWidth_extractLsb'_of_lenFits {len : Word} (h : lenFits len = true) :
    (len.extractLsb' 0 24).setWidth 32 = len := by
  have hlt : len.toNat < 2 ^ 24 := of_decide_eq_true h
  apply BitVec.eq_of_toNat_eq
  rw [BitVec.toNat_setWidth_of_le (by decide), BitVec.extractLsb'_toNat, Nat.shiftRight_zero, Nat.mod_eq_of_lt hlt]

/-! ### The decoder by the row of its opcode (R93, R96) -/

/-- The opcodes of format L (R92, R93). -/
def lengthOpcodes : List (BitVec 8) := [0x02, 0x03, 0x04]

/-- What a row of the opcode map says of the commands it makes: their opcode, their length, which of them have a word, and
whether the opcode is of format L (R92, R93). -/
def Form.Fits (o : BitVec 8) : Form → Prop
  | .z i => i.opcode = o ∧ i.len = 0 ∧ i.wf = true ∧ o ∉ lengthOpcodes
  | .l mk => (∀ len, (mk len).opcode = o ∧ (mk len).len = len ∧ (mk len).wf = lenFits len) ∧ o ∈ lengthOpcodes

theorem opcodeMap_fits : ∀ row ∈ opcodeMap, row.2.Fits row.1 := by
  simp [opcodeMap, Form.Fits, lengthOpcodes, Instr.opcode, Instr.len, Instr.wf]

theorem fits_of_lookup {o : BitVec 8} {f : Form} (h : opcodeMap.lookup o = some f) : f.Fits o := by
  obtain ⟨before, after, hsplit, -⟩ := List.lookup_eq_some_iff.mp h
  exact opcodeMap_fits (o, f) (by simp [hsplit])

/-- An opcode without a row is one not assigned (R93). -/
theorem lookup_opcodeMap_eq_none_iff (o : BitVec 8) : opcodeMap.lookup o = none ↔ o ∉ opcodeMap.map Prod.fst := by
  simp only [List.lookup_eq_none_iff, bne_iff_ne, List.mem_map, not_exists, not_and]
  exact forall₂_congr fun row _ => ne_comm

theorem decode_unassigned {w : Word} (h : opcodeMap.lookup (opcField w) = none) :
    decode w = .error (.unassignedOpcode (opcField w)) := by
  simp [decode, h]

theorem decode_z {w : Word} {i : Instr} (h : opcodeMap.lookup (opcField w) = some (.z i)) :
    decode w = if lenField w = 0 then .ok i else .error (.nonzeroLength (opcField w) (lenField w)) := by
  simp [decode, h]

theorem decode_l {w : Word} {mk : Word → Instr} (h : opcodeMap.lookup (opcField w) = some (.l mk)) :
    decode w = .ok (mk ((lenField w).setWidth 32)) := by
  simp [decode, h]

/-! ### Decoding and encoding undo each other -/

theorem decode_encode_z {i : Instr} (hrow : opcodeMap.lookup i.opcode = some (.z i)) (hlen : i.len = 0) :
    decode (encode i) = .ok i := by
  rw [← opcField_encode] at hrow
  rw [decode_z hrow, if_pos (by rw [lenField_encode, hlen]; rfl)]

theorem decode_encode_l {mk : Word → Instr} {len : Word} (hrow : opcodeMap.lookup (mk len).opcode = some (.l mk))
    (hlen : (mk len).len = len) (hfits : lenFits len = true) : decode (encode (mk len)) = .ok (mk len) := by
  rw [← opcField_encode] at hrow
  rw [decode_l hrow, lenField_encode, hlen, setWidth_extractLsb'_of_lenFits hfits]

namespace Machine

/-- Settles O1: each command by the format of its row. -/
theorem decodeOfEncode : Obligations.DecodeOfEncode := by
  intro i hwf
  cases i with
  | rbWrite len | rbRead len | rbFlush len => exact decode_encode_l rfl rfl hwf
  | _ => exact decode_encode_z rfl rfl

/-- Settles O2: the row the word was decoded by makes a command of the word's two fields. -/
theorem encodeOfDecode : Obligations.EncodeOfDecode := by
  intro w i h
  cases hrow : opcodeMap.lookup (opcField w) with
  | none => rw [decode_unassigned hrow] at h; cases h
  | some f =>
    cases f with
    | z j =>
      obtain ⟨hopc, hlen, hwf, -⟩ := fits_of_lookup hrow
      rw [decode_z hrow] at h
      split at h
      · next hzero =>
        cases h
        exact ⟨hwf, encode_eq_of_fields hopc (by rw [hlen, hzero]; rfl)⟩
      · cases h
    | l mk =>
      obtain ⟨hmk, -⟩ := fits_of_lookup hrow
      obtain ⟨hopc, hlen, hwf⟩ := hmk ((lenField w).setWidth 32)
      rw [decode_l hrow] at h
      cases h
      exact ⟨hwf.trans (lenFits_setWidth _), encode_eq_of_fields hopc hlen⟩

/-- The illegal words, as R94 lists them. -/
theorem decode_error_iff (w : Word) : (∃ e, decode w = .error e) ↔
    opcField w ∉ opcodeMap.map Prod.fst ∨ (opcField w ∉ lengthOpcodes ∧ lenField w ≠ 0) := by
  rw [← lookup_opcodeMap_eq_none_iff]
  cases hrow : opcodeMap.lookup (opcField w) with
  | none => exact iff_of_true ⟨_, decode_unassigned hrow⟩ (.inl rfl)
  | some f =>
    cases f with
    | z i =>
      obtain ⟨-, -, -, hform⟩ := fits_of_lookup hrow
      rw [decode_z hrow]
      by_cases hlen : lenField w = 0
      · simp [hlen]
      · exact iff_of_true ⟨_, if_neg hlen⟩ (.inr ⟨hform, hlen⟩)
    | l mk =>
      obtain ⟨-, hform⟩ := fits_of_lookup hrow
      rw [decode_l hrow]
      simp only [reduceCtorEq, exists_false, false_or, false_iff, not_and]
      exact absurd hform

/-- Settles O3: the words no row decodes, and checks 1 to 3 of R235 on an idle block. -/
theorem illegalWordsFault : Obligations.IllegalWordsFault := by
  intro w s
  refine ⟨decode_error_iff w, ?_⟩
  rintro ⟨e, he⟩ hidle
  rw [issue_illegal he, acceptCmd_idle _ _ hidle]

/-- Settles O4: the lines and the words by evaluation; the words decode because encoding is undone by decoding. -/
theorem encodedExamplesDecode : Obligations.EncodedExamplesDecode := by
  refine ⟨fun row hrow => ?_, by decide, by decide⟩
  suffices h : parseLine row.1.toList = some (.command row.2.2) ∧ row.2.2.wf = true ∧ encode row.2.2 = row.2.1 by
    obtain ⟨hline, hwf, hword⟩ := h
    exact ⟨hline, hword, hword ▸ decodeOfEncode _ hwf⟩
  revert row
  decide

/-! ### The pseudo-instructions (R97, R98) -/

/-- A flush of a length LEN holds is one CMD write (R91). -/
theorem hostFlush_fits {n : Word} (rest : List HostAction) (s : State) (h : n.toNat < 2 ^ 24) :
    hostFlush n rest s = issue (encode (.rbFlush n)) (s.setProg rest) := by
  rcases hostFlush_cases n rest s with ⟨-, hone⟩ | ⟨hlarge, -⟩
  · exact hone
  · omega

/-- Settles O60: the flush of the value read is one command, and each line stands for the actions written out. -/
theorem pseudoInstructionsExpand : Obligations.PseudoInstructionsExpand := by
  constructor
  · intro s rest hprog hfits
    have hmove : hostMove s = hostFlush s.ext.hostData rest s := by simp [hostMove, hprog]
    rw [hmove, hostFlush_fits rest s hfits, State.setProg]
  · intro addr n
    exact ⟨rfl, rfl, rfl, rfl, rfl⟩

end Machine

end Sys2Proof

/-! PROOFS. O21 to O29: the RingBuffer commands. First what each answers once it has passed the common checks (R235), said once;
then the statements about them. -/

namespace Sys2Proof.Machine

section
variable {s t : State} {i : Instr} {len : Word}

/-! ### The common checks (R235) -/

/-- Checks 4 to 7 fault with the cause of the first that applies. -/
theorem traps_of_violated {c : Cause} (hi : s.Idle) (hv : violated i s = some c) : Traps i s c := by
  obtain ⟨body, hbody⟩ := exec_eq_commonChecks i s
  rw [Traps, hbody]
  exact commonChecks_fail body hi hv

/-- After RB.INIT a command that does not mutate, and RB.FLUSH, pass the checks, span or no span (R93, R270). -/
theorem violated_initDone (hd : s.ring.initDone = true) (hm : mutates i = false ∨ isFlush i = true) (h1 : i ≠ .rbInit)
    (h2 : i ≠ .loopStart) : violated i s = none := by
  rcases hm with hm | hm <;> simp [violated, hd, hm, h1, h2]

/-- A command that needs INIT and mutates, other than RB.FLUSH, passes the checks on a ready block only. -/
theorem ready_of_violated_none (hi : s.Idle) (hv : violated i s = none) (hn : needsInit i = true) (hm : mutates i = true)
    (hf : isFlush i = false) : s.Ready :=
  have ⟨hinit, _, hspan⟩ := violated_none hv
  ⟨hi, hinit hn, hspan hm hf⟩

/-- On an idle block `complete` writes RESULT and nothing else (R40). -/
theorem State.Idle.complete_eq (hi : s.Idle) (v : Word) : s.complete v = { s with regs.result := v } :=
  State.eq_of_parts rfl rfl rfl rfl (State.complete_ctl_of_idle v hi) rfl rfl

theorem State.Idle.complete_with_ring (hi : s.Idle) (r : Ring) (v : Word) :
    State.complete { s with ring := r } v = { s with ring := r, regs.result := v } :=
  State.Idle.complete_eq (s := { s with ring := r }) hi v

/-- A command whose body only completes. -/
theorem exec_completes {v : Word} (hbody : exec i s = commonChecks i s (.next (s.complete v))) (hi : s.Idle)
    (hv : violated i s = none) : exec i s = .next { s with regs.result := v } := by
  rw [hbody, commonChecks_pass _ hi hv, hi.complete_eq]

/-! ### RB.INIT, RB.SPAN and RB.CLEAR (R111, R118, R120) -/

/-- Capacity without a store cannot be initialised (R111). -/
theorem traps_rbInit_noStore (hi : s.Idle) (hv : violated .rbInit s = none)
    (hno : ¬ (s.params.cap = 0 ∨ s.params.storePresent = true)) : Traps .rbInit s .initNoStore := by
  have hpass : exec .rbInit s = _ := commonChecks_pass _ hi hv
  rw [Traps, hpass]
  exact if_pos (by simpa [Nat.pos_iff_ne_zero] using hno)

theorem exec_rbInit (hi : s.Idle) (hv : violated .rbInit s = none) (hstore : s.params.cap = 0 ∨ s.params.storePresent = true) :
    exec .rbInit s = .next { s with ring := ⟨s.ring.store, 0, 0, true, false, 0, 0⟩, regs.result := 0 } := by
  have hno : ¬ (decide (0 < s.params.cap) && !s.params.storePresent) = true := by
    rcases hstore with h | h <;> simp [h]
  have hpass : exec .rbInit s = _ := commonChecks_pass _ hi hv
  rw [hpass, if_neg hno]
  exact congrArg Host.Outcome.next (hi.complete_with_ring _ 0)

theorem exec_rbSpan (hi : s.Idle) (hv : violated .rbSpan s = none) :
    exec .rbSpan s = .next { s with
      ring.spanOut := true, ring.spanOff := s.ring.head, ring.spanLen := BitVec.ofNat 32 s.spanLength
      regs.result := BitVec.ofNat 32 s.spanLength } := by
  have hpass : exec .rbSpan s = _ := commonChecks_pass _ hi hv
  exact hpass.trans (congrArg Host.Outcome.next (hi.complete_with_ring _ _))

theorem exec_rbClear (hi : s.Idle) (hv : violated .rbClear s = none) :
    exec .rbClear s = .next { s with ring.head := 0, ring.used := 0, regs.result := 0 } := by
  have hpass : exec .rbClear s = _ := commonChecks_pass _ hi hv
  exact hpass.trans (congrArg Host.Outcome.next (hi.complete_with_ring _ 0))

/-- An empty ring is full exactly where there is no capacity (R41, R273). -/
theorem State.flags_of_used_zero (hu : s.ring.used = 0) : s.isEmpty = true ∧ s.isFull = decide (s.params.cap = 0) :=
  ⟨State.isEmpty_iff.mpr hu, by simp [State.isFull, hu, eq_comm]⟩

/-! ### RB.WRITE (R112 to R114) -/

/-- The state after `RingPut` of `bytes` (R113). -/
def State.afterPut (s : State) (bytes : List Byte) : State :=
  { s with
    ring.store := s.storeAfterPut bytes
    ring.used := BitVec.ofNat 32 (s.ring.used.toNat + bytes.length) }

theorem ringPut_eq {bytes : List Byte} (hfit : bytes.length ≤ s.params.cap - s.ring.used.toNat) :
    ringPut s bytes = .ok (s.afterPut bytes) := by
  obtain ⟨u, hu⟩ := ringPut_answers hfit
  rw [hu, eq_of_ringPut hu]
  rfl

theorem State.RingInv.contents_afterPut (h : s.RingInv) {bytes : List Byte}
    (hfit : bytes.length ≤ s.params.cap - s.ring.used.toNat) : (s.afterPut bytes).contents = s.contents ++ bytes :=
  contents_of_ringPut h hfit (ringPut_eq hfit)

@[simp] theorem State.sourceBytes_length (s : State) (n : Nat) : (s.sourceBytes n).length = n := by simp [State.sourceBytes]

theorem State.sourceBytes_fit (s : State) (n : Nat) :
    (s.sourceBytes (s.accepted n)).length ≤ s.params.cap - s.ring.used.toNat :=
  (s.sourceBytes_length _).trans_le (s.accepted_le n)

/-- A range that passes the top of host memory (R112). -/
theorem not_hostRangeOk {a n : Nat} (h : n ≠ 0 ∧ 2 ^ 32 < a + n) : ¬ hostRangeOk a n = true := by
  obtain ⟨hne, hwrap⟩ := h
  rw [hostRangeOk_iff, not_or]
  exact ⟨hne, Nat.not_le.mpr hwrap⟩

theorem exec_rbWrite (hi : s.Idle) (hv : violated (.rbWrite len) s = none)
    (hrange : hostRangeOk s.regs.arg.toNat (s.accepted len.toNat) = true) :
    exec (.rbWrite len) s =
      .next ((s.afterPut (s.sourceBytes (s.accepted len.toNat))).complete (BitVec.ofNat 32 (s.accepted len.toNat))) := by
  have hpass : exec (.rbWrite len) s = _ := commonChecks_pass _ hi hv
  have hread : readRun (memRead s) s.regs.arg.toNat (s.accepted len.toNat) = .ok (s.sourceBytes (s.accepted len.toNat)) :=
    readRun_memRead s _ _ (add_le_of_hostRangeOk hrange)
  rw [hpass]
  dsimp only
  rw [if_pos hrange, hread]
  dsimp only
  rw [ringPut_eq (s.sourceBytes_fit len.toNat)]

theorem traps_rbWrite (hi : s.Idle) (hv : violated (.rbWrite len) s = none)
    (hrange : ¬ hostRangeOk s.regs.arg.toNat (s.accepted len.toNat) = true) : Traps (.rbWrite len) s .hostAddrWrap := by
  have hpass : exec (.rbWrite len) s = _ := commonChecks_pass _ hi hv
  rw [Traps, hpass]
  exact if_neg hrange

/-! ### RB.READ and RB.FLUSH (R115 to R117) -/

/-- The oldest bytes one by one are the front of the contents (R127). -/
theorem State.contents_take (s : State) {n : Nat} (hn : n ≤ s.ring.used.toNat) :
    (List.range n).map s.ringByte = s.contents.take n := by
  rw [State.contents, ← List.map_take, List.take_range, Nat.min_eq_left hn]

theorem State.available_le (s : State) (n : Nat) : s.available n ≤ s.ring.used.toNat := Nat.min_le_right _ _

theorem exec_rbRead (h : s.RingInv) (hi : s.Idle) (hv : violated (.rbRead len) s = none)
    (hrange : hostRangeOk s.regs.arg.toNat (s.available len.toNat) = true) :
    let n := s.available len.toNat
    exec (.rbRead len) s = .next (State.complete
      { s with
        ring := s.flushedRing n
        ext.hostMem := Memory.writeList s.ext.hostMem s.regs.arg.toNat (s.contents.take n) } (BitVec.ofNat 32 n)) := by
  intro n
  have hn : n ≤ s.ring.used.toNat := s.available_le len.toNat
  have hpass : exec (.rbRead len) s = _ := commonChecks_pass _ hi hv
  have hpeek : ringPeek s n = .ok (s.contents.take n) := by
    rw [ringPeek_ok s n h.head_lt_cap (hn.trans h.used_le_cap), s.contents_take hn]
  have hend : s.regs.arg.toNat + (s.contents.take n).length ≤ 2 ^ Config.hostAw := by
    simpa [hn] using add_le_of_hostRangeOk hrange
  have hdrop (m : Memory) :
      ringDrop { s with ext.hostMem := m } n = { s with ring := s.flushedRing n, ext.hostMem := m } :=
    State.RingInv.ringDrop_eq (s := { s with ext.hostMem := m }) { h with } hn
  rw [hpass]
  dsimp only
  rw [if_pos hrange, hpeek]
  dsimp only
  rw [writeRun_memWrite s _ _ hend]
  dsimp only
  rw [hdrop]

theorem traps_rbRead (hi : s.Idle) (hv : violated (.rbRead len) s = none)
    (hrange : ¬ hostRangeOk s.regs.arg.toNat (s.available len.toNat) = true) : Traps (.rbRead len) s .hostAddrWrap := by
  have hpass : exec (.rbRead len) s = _ := commonChecks_pass _ hi hv
  rw [Traps, hpass]
  exact if_neg hrange

/-- No span is out, or one of at least `len` bytes: RB.FLUSH may discard `len` bytes (R117). -/
def State.SpanCovers (s : State) (len : Word) : Prop := s.ring.spanOut = false ∨ len.toNat ≤ s.ring.spanLen.toNat

theorem exec_rbFlush (h : s.RingInv) (hi : s.Idle) (hv : violated (.rbFlush len) s = none) (hc : s.SpanCovers len) :
    let n := s.available len.toNat
    exec (.rbFlush len) s = .next (State.complete
      { s with ring := { s.flushedRing n with spanOut := false } } (BitVec.ofNat 32 n)) := by
  intro n
  have hpass : exec (.rbFlush len) s = _ := commonChecks_pass _ hi hv
  have hok : ¬ (s.ring.spanOut && decide (s.ring.spanLen.toNat < len.toNat)) = true := by
    rcases hc with hc | hc <;> simp [hc]
  have hdrop : ringDrop s n = { s with ring := s.flushedRing n } := h.ringDrop_eq (s.available_le len.toNat)
  rw [hpass, if_neg hok]
  dsimp only
  rw [hdrop]

/-- A flush longer than the outstanding span (R117). -/
theorem traps_rbFlush (hi : s.Idle) (hv : violated (.rbFlush len) s = none) (hc : ¬ s.SpanCovers len) :
    Traps (.rbFlush len) s .flushExceedsSpan := by
  have hpass : exec (.rbFlush len) s = _ := commonChecks_pass _ hi hv
  rw [Traps, hpass]
  exact if_pos (by simpa [State.SpanCovers] using hc)

/-- An outstanding span holds valid bytes only (R119, R270). -/
theorem State.RingInv.spanLen_le (h : s.RingInv) (hs : s.ring.spanOut = true) : s.ring.spanLen.toNat ≤ s.ring.used.toNat := by
  obtain ⟨-, hlen⟩ := h.span_current hs
  exact hlen.trans_le s.spanLength_le

end

/-! ### The statements of tier 1 -/

/-- Settles O21: check 5 of R235, then the two ends of the command's body. -/
theorem rbInitCompletes : Obligations.RbInitCompletes := by
  intro s hi
  have hpass (hd : s.ring.initDone = false) (hs : s.ring.spanOut = false) : violated .rbInit s = none := by
    simp [violated, needsInit, hd, hs]
  refine ⟨fun hd => traps_of_violated hi (by simp [violated, needsInit, hd]), fun hd hs hcap hno => ?_,
    fun hd hs hstore => ?_⟩
  · exact traps_rbInit_noStore hi (hpass hd hs) (by simp [hno, Nat.ne_of_gt hcap])
  · exact ⟨_, exec_rbInit hi (hpass hd hs) hstore, rfl, State.flags_of_used_zero rfl⟩

/-- Settles O26: a ready block passes the checks, and the body empties the ring. -/
theorem rbClearZeroesRing : Obligations.RbClearZeroesRing := by
  intro s hr
  exact ⟨_, exec_rbClear hr.1 (violated_ready hr nofun nofun), rfl, State.flags_of_used_zero rfl⟩

/-- Settles O27: RB.CAP passes the checks in any case, the other four after RB.INIT; each body only completes. -/
theorem introspectionCommandsAnswer : Obligations.IntrospectionCommandsAnswer := by
  intro s hi
  refine ⟨exec_completes rfl hi rfl, fun hd => ?_, fun hd => ?_⟩
  · have hneeds {i : Instr} (hn : needsInit i = true) : Traps i s .notInitialized :=
      traps_of_violated hi (by simp [violated, hn, hd])
    exact ⟨hneeds rfl, hneeds rfl, hneeds rfl, hneeds rfl⟩
  · have hv {i : Instr} (hm : mutates i = false) (h1 : i ≠ .rbInit) (h2 : i ≠ .loopStart) : violated i s = none :=
      violated_initDone hd (.inl hm) h1 h2
    refine ⟨exec_completes rfl hi (hv rfl nofun nofun), exec_completes rfl hi (hv rfl nofun nofun), ?_, ?_⟩
    · rw [exec_completes (i := .rbEmpty) rfl hi (hv rfl nofun nofun)]
      simp [flagWord, State.isEmpty]
    · rw [exec_completes (i := .rbFull) rfl hi (hv rfl nofun nofun)]
      simp [flagWord, State.isFull]

/-! ### The statements of tier 2, command by command -/

/-- Settles O22: whether the range passes the top decides; the bytes stored are those `RingPut` appends. -/
theorem rbWriteStoresAcceptedBytes : Obligations.RbWriteStoresAcceptedBytes := by
  intro s len h hr n
  have hv : violated (.rbWrite len) s = none := violated_ready hr nofun nofun
  have hfit : (s.sourceBytes n).length ≤ s.params.cap - s.ring.used.toNat := s.sourceBytes_fit len.toNat
  constructor
  · exact fun hwrap => traps_rbWrite hr.1 hv (not_hostRangeOk hwrap)
  · intro hrange
    have hexec : exec (.rbWrite len) s = .next ((s.afterPut (s.sourceBytes n)).complete (BitVec.ofNat 32 n)) :=
      exec_rbWrite hr.1 hv ((hostRangeOk_iff _ _).mpr hrange)
    refine ⟨_, hexec, h.ringInv.contents_afterPut hfit, fun k hk => ?_, fun i hother => ?_, ?_, rfl,
      rfl, rfl, rfl, State.complete_ctl_of_idle _ hr.1, rfl⟩
    · have hk' : k < (s.sourceBytes n).length := by simpa using hk
      refine (s.find_storeAfterPut_new _ h.headOk hfit k hk').trans ?_
      simp [State.sourceBytes]
    · exact s.find_storeAfterPut_other _ h.headOk hfit i (by simpa using hother)
    · simp [State.afterPut]

/-- Settles O23: whether the range passes the top decides; the bytes delivered are the front of the contents. -/
theorem rbReadDeliversOldestBytes : Obligations.RbReadDeliversOldestBytes := by
  intro s len h hr n
  have hv : violated (.rbRead len) s = none := violated_ready hr nofun nofun
  have hn : n ≤ s.ring.used.toNat := s.available_le len.toNat
  constructor
  · exact fun hwrap => traps_rbRead hr.1 hv (not_hostRangeOk hwrap)
  · intro hrange
    have hlen : (s.contents.take n).length = n := by simp [hn]
    have hexec : exec (.rbRead len) s = .next (State.complete
        { s with
          ring := s.flushedRing n
          ext.hostMem := Memory.writeList s.ext.hostMem s.regs.arg.toNat (s.contents.take n) } (BitVec.ofNat 32 n)) :=
      exec_rbRead h.ringInv hr.1 hv ((hostRangeOk_iff _ _).mpr hrange)
    refine ⟨_, hexec, h.ringInv.contents_flushed hn rfl rfl, fun k hk => ?_, fun a ha => ?_, rfl, rfl,
      rfl, rfl, rfl, State.complete_ctl_of_idle _ hr.1, rfl⟩
    · refine (Memory.find_writeList _ _ _ _).trans ?_
      rw [if_pos (by rw [hlen]; omega), Nat.add_sub_cancel_left, List.getElem?_take, if_pos hk]
    · refine (Memory.find_writeList _ _ _ _).trans (if_neg ?_)
      rintro ⟨hle, hlt⟩
      rw [hlen] at hlt
      exact ha (a - s.regs.arg.toNat) (by omega) (by omega)

/-- Settles O24: whether an outstanding span holds `len` bytes decides; if so there are `len` bytes to discard. -/
theorem rbFlushDiscards : Obligations.RbFlushDiscards := by
  intro s len h hi hd n
  have hv : violated (.rbFlush len) s = none := violated_initDone hd (.inr rfl) nofun nofun
  have hn : n ≤ s.ring.used.toNat := s.available_le len.toNat
  constructor
  · intro hs hlt
    exact traps_rbFlush hi hv (by simp [State.SpanCovers, hs, hlt])
  · intro hc
    refine ⟨_, exec_rbFlush h.ringInv hi hv hc, h.ringInv.contents_flushed (t := { s with ring := s.flushedRing n }) hn rfl rfl,
      fun hs => ?_, rfl, rfl, rfl, rfl, rfl, State.complete_ctl_of_idle _ hi, rfl⟩
    have hlen : len.toNat ≤ s.ring.spanLen.toNat := hc.resolve_left (by simp [hs])
    exact Nat.min_eq_left (hlen.trans (h.ringInv.spanLen_le hs))

/-- Settles O25: the run ends with the data or at the end of the store; handing it out changes neither. -/
theorem rbSpanHandsOutLinearRun : Obligations.RbSpanHandsOutLinearRun := by
  intro s h hi hd n
  have hn : s.spanLength = n := by
    unfold State.spanLength
    split <;> omega
  have hend := h.ringInv.head_add_spanLength_le
  have hv {u : State} (hdu : u.ring.initDone = true) : violated .rbSpan u = none :=
    violated_initDone hdu (.inl rfl) nofun nofun
  rw [← hn]
  refine ⟨hend, fun k hk => Nat.mod_eq_of_lt (by omega), _, exec_rbSpan hi (hv hd), rfl, ?_⟩
  exact exec_rbSpan hi (hv hd)

end Sys2Proof.Machine

/-! PROOFS. O12, O28, O29, O52: what every RingBuffer command, and every command, answers. -/

namespace Sys2Proof.Machine

section
variable {s t : State} {i : Instr}

/-! ### RingBuffer commands stay in the ring (R110) -/

/-- The command faults, or completes in its one step with ring, RESULT and host memory alone written (R110). -/
def StaysInRing (i : Instr) (s : State) : Prop :=
  (∃ c, Traps i s c) ∨
  ∃ t, exec i s = .next t ∧ t.params = s.params ∧ t.val = s.val ∧ t.diag = s.diag ∧ t.ctl = s.ctl ∧
    t.regs = { s.regs with result := t.regs.result } ∧ t.ext = { s.ext with hostMem := t.ext.hostMem }

theorem staysInRing_of_traps {c : Cause} (h : Traps i s c) : StaysInRing i s := .inl ⟨c, h⟩

/-- A command that completes from the state with another ring and host memory. -/
theorem staysInRing_of_complete {r : Ring} {m : Memory} {v : Word} (hi : s.Idle)
    (h : exec i s = .next (State.complete { s with ring := r, ext.hostMem := m } v)) : StaysInRing i s :=
  .inr ⟨_, h, rfl, rfl, rfl, State.complete_ctl_of_idle _ hi, rfl, rfl⟩

/-- A command that writes the ring and RESULT. -/
theorem staysInRing_of_exec {r : Ring} {v : Word} (h : exec i s = .next { s with ring := r, regs.result := v }) :
    StaysInRing i s :=
  .inr ⟨_, h, rfl, rfl, rfl, rfl, rfl, rfl⟩

/-- Settles O28: a command that fails a common check faults; the others by what each of them answers. -/
theorem ringCommandsStayInTheRing : Obligations.RingCommandsStayInTheRing := by
  intro i s len h hi hmem
  change StaysInRing i s
  cases hv : violated i s with
  | some c => exact staysInRing_of_traps (traps_of_violated hi hv)
  | none =>
    simp only [List.mem_cons, List.not_mem_nil, or_false] at hmem
    rcases hmem with rfl | rfl | rfl | rfl | rfl | rfl | rfl | rfl | rfl | rfl | rfl
    · by_cases hstore : s.params.cap = 0 ∨ s.params.storePresent = true
      · exact staysInRing_of_exec (exec_rbInit hi hv hstore)
      · exact staysInRing_of_traps (traps_rbInit_noStore hi hv hstore)
    · by_cases hrange : hostRangeOk s.regs.arg.toNat (s.accepted len.toNat) = true
      · exact staysInRing_of_complete hi (exec_rbWrite hi hv hrange)
      · exact staysInRing_of_traps (traps_rbWrite hi hv hrange)
    · by_cases hrange : hostRangeOk s.regs.arg.toNat (s.available len.toNat) = true
      · exact staysInRing_of_complete hi (exec_rbRead h.ringInv hi hv hrange)
      · exact staysInRing_of_traps (traps_rbRead hi hv hrange)
    · by_cases hc : s.SpanCovers len
      · exact staysInRing_of_complete hi (exec_rbFlush h.ringInv hi hv hc)
      · exact staysInRing_of_traps (traps_rbFlush hi hv hc)
    · exact staysInRing_of_exec (exec_rbSpan hi hv)
    · exact staysInRing_of_exec (exec_rbClear hi hv)
    · exact staysInRing_of_exec (exec_completes rfl hi hv)
    · exact staysInRing_of_exec (exec_completes rfl hi hv)
    · exact staysInRing_of_exec (exec_completes rfl hi hv)
    · exact staysInRing_of_exec (exec_completes rfl hi hv)
    · exact staysInRing_of_exec (exec_completes rfl hi hv)

/-! ### A write, then a read (R126) -/

/-- RB.WRITE of what fits fills an empty ring with the source bytes, and leaves the block ready. -/
theorem exec_rbWrite_empty (n : Word) (h : s.Inv) (hr : s.Ready) (hempty : s.ring.used = 0) (hcap : n.toNat ≤ s.params.cap)
    (hsrc : s.regs.arg.toNat + n.toNat ≤ 2 ^ 32) :
    ∃ t, exec (.rbWrite n) s = .next t ∧ t.Ready ∧ t.regs.result = n ∧ t.ring.used = n ∧
      t.contents = s.sourceBytes n.toNat := by
  have hfree : min n.toNat (s.params.cap - s.ring.used.toNat) = n.toNat := by simp [hempty, hcap]
  have hnone : s.contents = [] := by simp [State.contents, hempty]
  obtain ⟨hidle, hinit, hspan⟩ := hr
  obtain ⟨-, hwrite⟩ := rbWriteStoresAcceptedBytes s n h ⟨hidle, hinit, hspan⟩
  rw [hfree] at hwrite
  obtain ⟨t, ht, hcontents, -, -, hring, hregs, -, -, -, hctl, -⟩ := hwrite (.inr hsrc)
  refine ⟨t, ht, ⟨?_, ?_, ?_⟩, ?_, ?_, ?_⟩
  · rw [hctl]; exact hidle
  · rw [hring]; exact hinit
  · rw [hring]; exact hspan
  · rw [hregs]; simp
  · rw [hring, hempty]; simp
  · rw [hcontents, hnone, List.nil_append]

/-- RB.READ of all valid bytes delivers the whole contents and leaves the ring empty. -/
theorem exec_rbRead_all (n : Word) (h : s.Inv) (hr : s.Ready) (hused : s.ring.used = n)
    (hdst : s.regs.arg.toNat + n.toNat ≤ 2 ^ 32) :
    ∃ t, exec (.rbRead n) s = .next t ∧ t.regs.result = n ∧ t.ring.used = 0 ∧
      ∀ k, k < n.toNat → Memory.find t.ext.hostMem (s.regs.arg.toNat + k) = s.contents[k]? := by
  have hall : min n.toNat s.ring.used.toNat = n.toNat := by rw [hused, Nat.min_self]
  obtain ⟨-, hread⟩ := rbReadDeliversOldestBytes s n h hr
  rw [hall] at hread
  obtain ⟨t, ht, -, hbytes, -, hring, hregs, -⟩ := hread (.inr hdst)
  refine ⟨t, ht, ?_, ?_, hbytes⟩
  · rw [hregs]; simp
  · rw [hring, hused, Nat.sub_self]; rfl

/-- Settles O29: the write fills the empty ring with the source bytes, and the read, at ARG = `dst`, delivers all of them. -/
theorem writeThenReadReturnsBytes : Obligations.WriteThenReadReturnsBytes := by
  intro s n dst h hr hempty hcap hsrc hdst
  obtain ⟨t, ht, hready, hwritten, hused, hcontents⟩ := exec_rbWrite_empty n h hr hempty hcap hsrc
  have hinv : (writeReg t .arg dst).Inv := writeReg_inv _ _ (Out.all_iff.mp (exec_inv _ h) t ht)
  have hdata : (writeReg t .arg dst).contents = s.sourceBytes n.toNat := hcontents
  obtain ⟨u, hu, hread, hleft, hbytes⟩ := exec_rbRead_all n hinv hready hused hdst
  refine ⟨t, u, ht, hu, hwritten, hread, hleft, fun k hk => (hbytes k hk).trans ?_⟩
  rw [hdata]
  simp [State.sourceBytes, hk]

/-! ### No refusal, and the end of a command (R110, R272) -/

/-- The outcome is no refusal, and `P` holds of the next state, if it has one. -/
def Out.Answers (P : State → Prop) : Out → Prop
  | .next t => P t
  | .fault _ => True
  | .refused _ => False

/-- A process step that terminates the block leaves it not busy. -/
def ProcessResult.FatalNotBusy : ProcessResult → Prop
  | .done _ _ => True
  | .fatal t => t.isBusy = false
  | .broken _ => True

theorem processSpans_fatalNotBusy (fatal : Bool) (word : Word) (fuel total : Nat) (s : State) :
    (processSpans fatal word fuel total s).FatalNotBusy := by
  induction fuel generalizing total s with
  | zero => trivial
  | succ fuel ih =>
    unfold processSpans
    split
    · trivial
    · split
      · trivial
      · split
        · unfold processMismatch
          cases fatal with
          | false => trivial
          | true => rfl
        · exact ih _ _

variable {P : State → Prop}

/-- The common checks refuse nothing; they answer a terminated state, a fault of the state, or what the body answers. -/
theorem commonChecks_answers {body : Out} (ht : s.ctl.phase = .terminated → P s)
    (hf : ∀ c, P (s.raiseFault c (encode i))) (hb : body.Answers P) : Out.Answers P (commonChecks i s body) := by
  rcases s.phase_cases with hi | ⟨hbusy, -⟩ | ⟨hterm, -⟩
  · cases hv : violated i s with
    | none => rwa [commonChecks_pass body hi hv]
    | some c => rw [commonChecks_fail body hi hv]; exact hf c
  · rw [commonChecks, acceptCmd_busy _ _ hbusy]; exact hf _
  · rw [commonChecks, acceptCmd_terminated _ _ hterm]; exact ht hterm

/-- A body that ends the command leaves the block not busy, and so do the common checks. -/
theorem commonChecks_notBusy {body : Out} (hb : body.Answers (·.isBusy = false)) :
    (commonChecks i s body).Answers (·.isBusy = false) :=
  commonChecks_answers (fun ht => by simp [State.isBusy, ht, Phase.busy]) (fun _ => rfl) hb

theorem execRbWrite_notBusy (len : Word) (s : State) : (execRbWrite len s).Answers (·.isBusy = false) := by
  refine commonChecks_notBusy ?_
  dsimp only
  split
  · split
    · trivial
    · split
      · trivial
      · rfl
  · rfl

theorem execRbRead_notBusy (len : Word) (s : State) : (execRbRead len s).Answers (·.isBusy = false) := by
  refine commonChecks_notBusy ?_
  dsimp only
  split
  · split
    · trivial
    · split
      · trivial
      · rfl
  · rfl

theorem processFinish_notBusy {r : ProcessResult} (h : r.FatalNotBusy) : (processFinish r).Answers (·.isBusy = false) := by
  cases r with
  | done n t => rfl
  | fatal t => exact h
  | broken f => trivial

/-- Every command but FC.DRAIN and LOOP.RUN is over after its step, from any state. -/
theorem exec_notBusy (s : State) (hdrain : i ≠ .fcDrain) (hloop : i ≠ .loopRun) :
    Out.Answers (·.isBusy = false) (exec i s) := by
  cases i with
  | rbInit => exact commonChecks_notBusy (by split <;> rfl)
  | rbWrite len => exact execRbWrite_notBusy len s
  | rbRead len => exact execRbRead_notBusy len s
  | rbFlush len => exact commonChecks_notBusy (by split <;> rfl)
  | rbSpan => exact commonChecks_notBusy rfl
  | rbClear => exact commonChecks_notBusy rfl
  | rbCap => exact commonChecks_notBusy rfl
  | rbUsed => exact commonChecks_notBusy rfl
  | rbFree => exact commonChecks_notBusy rfl
  | rbEmpty => exact commonChecks_notBusy rfl
  | rbFull => exact commonChecks_notBusy rfl
  | fcDrain => exact absurd rfl hdrain
  | svProcess => exact commonChecks_notBusy (processFinish_notBusy (processSpans_fatalNotBusy _ _ _ _ _))
  | osRead =>
    refine commonChecks_notBusy ?_
    split
    · trivial
    · rfl
  | loopStart => exact commonChecks_notBusy rfl
  | loopRun => exact absurd rfl hloop

theorem Out.Answers.of_next {o : Out} (h : o.Answers P) (ho : o = .next t) : P t := by
  subst ho
  exact h

theorem Out.Answers.ne_refused {o : Out} (h : o.Answers P) (r : Refusal) : o ≠ .refused r := by
  rintro rfl
  exact h

theorem drainFinish_answers (r : DrainResult) : (drainFinish r).Answers fun _ => True := by
  cases r <;> trivial

end

/-- Settles O52: completion and termination both leave the block not busy. -/
theorem onlyDrainAndLoopStayBusy : Obligations.OnlyDrainAndLoopStayBusy := by
  intro i s t hdrain hloop _ ht
  exact (exec_notBusy s hdrain hloop).of_next ht

/-- Settles O12: the two commands that may go on answer too, because a drain check always ends in one of its four results. -/
theorem noCommandRefused : Obligations.NoCommandRefused := by
  intro i s r
  by_cases hdrain : i = .fcDrain
  · subst hdrain
    have hanswers : (execFcDrain s).Answers fun _ => True := by
      refine commonChecks_answers (fun _ => trivial) (fun _ => trivial) ?_
      split
      · trivial
      · exact drainFinish_answers _
    exact hanswers.ne_refused r
  · by_cases hloop : i = .loopRun
    · subst hloop
      have hanswers : (execLoopRun s).Answers fun _ => True :=
        commonChecks_answers (fun _ => trivial) (fun _ => trivial) trivial
      exact hanswers.ne_refused r
    · exact (exec_notBusy s hdrain hloop).ne_refused r

end Sys2Proof.Machine

/-! PROOFS. O30: the ring is a bounded first-in first-out queue. First which updates of the ring are moves of the queue, then the
commands, then the agents' turns. -/

namespace Sys2Proof.Machine

/-- From `s` to `t` the ring appends bytes that fit, or takes bytes off the front (R126). -/
def State.Queues (s t : State) : Prop :=
  (∃ new : List Byte, new.length ≤ s.params.cap - s.ring.used.toNat ∧ t.contents = s.contents ++ new) ∨
  ∃ n, n ≤ s.ring.used.toNat ∧ t.contents = s.contents.drop n

section
variable {s t u : State} {loops : Bool}

/-! ### The moves of the queue -/

theorem State.Queues.congr (h : s.Queues t) (hring : u.ring = t.ring) (hparams : u.params = t.params) : s.Queues u := by
  rwa [State.Queues, State.contents_congr hring hparams]

theorem State.queues_of_ring_eq (hring : t.ring = s.ring) (hparams : t.params = s.params) : s.Queues t :=
  .inr ⟨0, Nat.zero_le _, State.contents_congr hring hparams⟩

/-- Emptying the ring takes all bytes off (R263). -/
theorem State.queues_of_emptied (hused : t.ring.used = 0) : s.Queues t := by
  have hnone : t.contents = [] := by simp [State.contents, hused]
  refine .inr ⟨s.ring.used.toNat, Nat.le_refl _, ?_⟩
  rw [hnone, List.drop_of_length_le s.contents_length.le]

theorem State.RingInv.queues_flushed (h : s.RingInv) {n : Nat} (hn : n ≤ s.ring.used.toNat) (hring : t.ring = s.flushedRing n)
    (hparams : t.params = s.params) : s.Queues t :=
  .inr ⟨n, hn, h.contents_flushed hn hring hparams⟩

theorem State.RingInv.queues_afterPut (h : s.RingInv) {bytes : List Byte}
    (hfit : bytes.length ≤ s.params.cap - s.ring.used.toNat) : s.Queues (s.afterPut bytes) :=
  .inl ⟨bytes, hfit, h.contents_afterPut hfit⟩

/-! ### The drain check and the process step (R152, R170) -/

/-- A drain check appends what it admits of the run (R153), or leaves the ring alone. -/
theorem drainCheck_queues (word : Word) (h : s.Working loops) : (drainCheck word s).All s.Queues := by
  have hlatch : s.Queues (s.askUpstream.latchOverflow s.flagByte) := State.queues_of_ring_eq (by simp) (by simp)
  rcases drainCheck_cases word s with ⟨-, -, heq⟩ | ⟨-, hallowed, heq⟩ | ⟨-, heq⟩ <;> rw [heq]
  · exact State.queues_of_ring_eq rfl rfl
  · obtain ⟨hrun, -⟩ := (runAllowed_iff _ _ _).mp hallowed
    obtain ⟨t, ht, hadmits⟩ := drainTransfer_admits h.askUpstream.aside.ringInv hrun
    rw [ht]
    refine .inl ⟨s.runBytes (s.accepted s.ext.upLen), ?_, hadmits.contents⟩
    simpa [State.runBytes] using s.accepted_le s.ext.upLen
  · have hflag := Params.ovfOffset_lt h.aside.params_ok
    rcases drainIdle_cases word s.askUpstream hflag with ⟨-, -, hidle⟩ | ⟨-, -, hidle⟩ | ⟨-, hidle⟩ <;> rw [hidle]
    · exact hlatch.congr rfl rfl
    · exact hlatch
    · exact hlatch

theorem drainFinish_queues {r : DrainResult} (h : r.All s.Queues) : Out.All s.Queues (drainFinish r) := by
  cases r with
  | done n t => exact State.Queues.congr h rfl rfl
  | fatal t => exact h
  | block t => exact State.Queues.congr h rfl rfl
  | broken f => trivial

theorem runDrainFinish_queues {r : DrainResult} (h : r.All s.Queues) : Out.All s.Queues (runDrainFinish r) := by
  cases r with
  | done n t => exact State.Queues.congr h rfl rfl
  | fatal t => exact h
  | block t => exact State.Queues.congr h rfl rfl
  | broken f => trivial

/-- A process step takes off what it has examined: all bytes, or those up to and with the first mismatch (R174). -/
theorem processBody_queues (config word : Word) (h : s.Working loops) : (processBody config word s).All s.Queues := by
  have hr := h.aside.ringInv
  rcases s.match_cases with hm | ⟨b, hb⟩
  · rw [processBody_match _ _ h hm]
    exact hr.queues_flushed (Nat.le_refl _) rfl rfl
  · obtain ⟨hlt, -⟩ := List.getElem?_eq_some_iff.mp hb
    rw [s.contents_length] at hlt
    rw [processBody_mismatch _ _ h rfl hb]
    split
    · exact hr.queues_flushed hlt rfl rfl
    · exact hr.queues_flushed hlt rfl rfl

theorem processFinish_queues {r : ProcessResult} (h : r.All s.Queues) : Out.All s.Queues (processFinish r) := by
  cases r with
  | done n t => exact State.Queues.congr h rfl rfl
  | fatal t => exact h
  | broken f => trivial

theorem runProcessFinish_queues {r : ProcessResult} (h : r.All s.Queues) : Out.All s.Queues (runProcessFinish r) := by
  cases r with
  | done n t => exact State.Queues.congr h rfl rfl
  | fatal t => exact h
  | broken f => trivial

/-! ### The commands -/

/-- A ready block is in a working state (R235). -/
theorem State.Inv.working_of_ready (h : s.Inv) (hr : s.Ready) : s.Working false :=
  have ⟨hidle, hinit, hspan⟩ := hr
  ⟨h.aside (by simp [hidle]), hinit, hspan, nofun⟩

theorem queues_of_traps {i : Instr} {c : Cause} (h : Traps i s c) : Out.All s.Queues (exec i s) := by
  rw [h]
  exact State.queues_of_ring_eq rfl rfl

/-- What holds of the state and its faults holds of what a command answers, if it does once the common checks are passed
(R235). -/
theorem exec_all_of_passed {P : State → Prop} {i : Instr} (hs : P s) (hf : ∀ c, P (s.raiseFault c (encode i)))
    (hb : s.Idle → violated i s = none → Out.All P (exec i s)) : Out.All P (exec i s) := by
  obtain ⟨body, hbody⟩ := exec_eq_commonChecks i s
  rw [Out.all_iff]
  intro t ht
  rcases commonChecks_next (hbody ▸ ht) with ⟨-, rfl⟩ | ⟨-, rfl⟩ | ⟨-, c, -, rfl⟩ | ⟨hi, hv, -⟩
  · exact hs
  · exact hf _
  · exact hf c
  · exact Out.all_iff.mp (hb hi hv) t ht

/-- A command that has not passed the common checks leaves the ring alone. -/
theorem exec_queues_of_passed {i : Instr} (hb : s.Idle → violated i s = none → Out.All s.Queues (exec i s)) :
    Out.All s.Queues (exec i s) :=
  exec_all_of_passed (State.queues_of_ring_eq rfl rfl) (fun _ => State.queues_of_ring_eq rfl rfl) hb

/-- A command whose body leaves ring and parameters alone. -/
theorem exec_queues_of_body {i : Instr} {body : Out} (hbody : exec i s = commonChecks i s body)
    (hb : Out.All (fun t => t.ring = s.ring ∧ t.params = s.params) body) : Out.All s.Queues (exec i s) := by
  refine exec_queues_of_passed fun hi hv => ?_
  rw [hbody, commonChecks_pass body hi hv, Out.all_iff]
  intro t ht
  obtain ⟨hring, hparams⟩ := Out.all_iff.mp hb t ht
  exact State.queues_of_ring_eq hring hparams

theorem exec_rbInit_queues (s : State) : Out.All s.Queues (exec .rbInit s) := by
  refine exec_queues_of_passed fun hi hv => ?_
  by_cases hstore : s.params.cap = 0 ∨ s.params.storePresent = true
  · rw [exec_rbInit hi hv hstore]
    exact State.queues_of_emptied rfl
  · exact queues_of_traps (traps_rbInit_noStore hi hv hstore)

theorem exec_rbWrite_queues (len : Word) (h : s.RingInv) : Out.All s.Queues (exec (.rbWrite len) s) := by
  refine exec_queues_of_passed fun hi hv => ?_
  by_cases hrange : hostRangeOk s.regs.arg.toNat (s.accepted len.toNat) = true
  · rw [exec_rbWrite hi hv hrange]
    exact (h.queues_afterPut (s.sourceBytes_fit len.toNat)).congr rfl rfl
  · exact queues_of_traps (traps_rbWrite hi hv hrange)

theorem exec_rbRead_queues (len : Word) (h : s.RingInv) : Out.All s.Queues (exec (.rbRead len) s) := by
  refine exec_queues_of_passed fun hi hv => ?_
  by_cases hrange : hostRangeOk s.regs.arg.toNat (s.available len.toNat) = true
  · rw [exec_rbRead h hi hv hrange]
    exact h.queues_flushed (s.available_le len.toNat) rfl rfl
  · exact queues_of_traps (traps_rbRead hi hv hrange)

/-- The flush takes bytes off; that it releases the span is no matter of the contents (R117). -/
theorem exec_rbFlush_queues (len : Word) (h : s.RingInv) : Out.All s.Queues (exec (.rbFlush len) s) := by
  refine exec_queues_of_passed fun hi hv => ?_
  by_cases hc : s.SpanCovers len
  · rw [exec_rbFlush h hi hv hc]
    exact h.queues_flushed (t := { s with ring := s.flushedRing (s.available len.toNat) }) (s.available_le len.toNat) rfl rfl
  · exact queues_of_traps (traps_rbFlush hi hv hc)

/-- The span handed out is no matter of the contents (R120). -/
theorem exec_rbSpan_queues (s : State) : Out.All s.Queues (exec .rbSpan s) := by
  refine exec_queues_of_passed fun hi hv => ?_
  rw [exec_rbSpan hi hv]
  exact State.queues_of_ring_eq (t := s) rfl rfl

theorem exec_rbClear_queues (s : State) : Out.All s.Queues (exec .rbClear s) := by
  refine exec_queues_of_passed fun hi hv => ?_
  rw [exec_rbClear hi hv]
  exact State.queues_of_emptied rfl

/-- FC.DRAIN and SV.PROCESS start from a ready block (R235). -/
theorem exec_fcDrain_queues (h : s.Inv) : Out.All s.Queues (exec .fcDrain s) := by
  refine exec_queues_of_passed fun hi hv => ?_
  have hw := h.working_of_ready (ready_of_violated_none hi hv rfl rfl rfl)
  have hpass : exec .fcDrain s = _ := commonChecks_pass _ hi hv
  rw [hpass]
  split
  · exact State.queues_of_ring_eq rfl rfl
  · exact drainFinish_queues (drainCheck_queues _ hw)

theorem exec_svProcess_queues (h : s.Inv) : Out.All s.Queues (exec .svProcess s) := by
  refine exec_queues_of_passed fun hi hv => ?_
  have hw := h.working_of_ready (ready_of_violated_none hi hv rfl rfl rfl)
  have hpass : exec .svProcess s = _ := commonChecks_pass _ hi hv
  rw [hpass]
  exact processFinish_queues (processBody_queues _ _ hw)

/-- Every command moves the queue. -/
theorem exec_queues (i : Instr) (h : s.Inv) : Out.All s.Queues (exec i s) := by
  cases i with
  | rbInit => exact exec_rbInit_queues s
  | rbWrite len => exact exec_rbWrite_queues len h.ringInv
  | rbRead len => exact exec_rbRead_queues len h.ringInv
  | rbFlush len => exact exec_rbFlush_queues len h.ringInv
  | rbSpan => exact exec_rbSpan_queues s
  | rbClear => exact exec_rbClear_queues s
  | rbCap => exact exec_queues_of_body rfl ⟨rfl, rfl⟩
  | rbUsed => exact exec_queues_of_body rfl ⟨rfl, rfl⟩
  | rbFree => exact exec_queues_of_body rfl ⟨rfl, rfl⟩
  | rbEmpty => exact exec_queues_of_body rfl ⟨rfl, rfl⟩
  | rbFull => exact exec_queues_of_body rfl ⟨rfl, rfl⟩
  | fcDrain => exact exec_fcDrain_queues h
  | svProcess => exact exec_svProcess_queues h
  | osRead =>
    refine exec_queues_of_body rfl ?_
    split
    · trivial
    · exact ⟨rfl, rfl⟩
  | loopStart => exact exec_queues_of_body rfl ⟨rfl, rfl⟩
  | loopRun =>
    refine exec_queues_of_body rfl ?_
    split <;> exact ⟨rfl, rfl⟩

/-- A CMD write, legal or not. -/
theorem issue_queues (w : Word) (h : s.Inv) : Out.All s.Queues (issue w s) := by
  have hsame : s.Queues s := State.queues_of_ring_eq rfl rfl
  cases hd : decode w with
  | ok i => rw [issue_decoded hd]; exact exec_queues i h
  | error e =>
    rw [issue_illegal hd]
    exact acceptCmd_all w hsame (fun _ => hsame.congr rfl rfl) (hsame.congr rfl rfl)

/-! ### The agents' turns -/

theorem coreMove_queues (h : s.Inv) : Out.All s.Queues (coreMove s) := by
  have hworking (hb : s.ctl.phase.busy = true) : s.Working false := h.working_of_busy hb nofun
  have hwait : Out.All s.Queues (waitStep s) := by
    unfold waitStep
    split <;> exact State.queues_of_ring_eq rfl rfl
  unfold coreMove
  cases hp : s.ctl.phase with
  | idle => exact State.queues_of_ring_eq rfl rfl
  | terminated => exact State.queues_of_ring_eq rfl rfl
  | drainWait => exact hwait
  | runWait => exact hwait
  | drainCheck => exact drainFinish_queues (drainCheck_queues _ (hworking (by rw [hp]; rfl)))
  | runDrain =>
    dsimp only
    unfold runDrainStep
    split
    · exact State.queues_of_ring_eq rfl rfl
    · exact runDrainFinish_queues (drainCheck_queues _ (hworking (by rw [hp]; rfl)))
  | runProcess => exact runProcessFinish_queues (processBody_queues _ _ (hworking (by rw [hp]; rfl)))

theorem writeReg_ring (s : State) (r : HostReg) (v : Word) : (writeReg s r v).ring = s.ring := by cases r <;> rfl

/-- The host reaches the ring by a CMD write only (R37, R62). -/
theorem hostMove_cases (s : State) :
    (∃ prog w, hostMove s = issue w (s.setProg prog)) ∨ Out.All (·.ring = s.ring) (hostMove s) := by
  have hflush (n : Word) (rest : List HostAction) : ∃ prog w, hostFlush n rest s = issue w (s.setProg prog) := by
    rcases hostFlush_cases n rest s with ⟨-, heq⟩ | ⟨-, heq⟩ <;> exact ⟨_, _, heq⟩
  unfold hostMove
  split
  · exact .inr rfl
  · unfold hostWrite
    split
    · exact .inr trivial
    · exact .inl ⟨_, _, rfl⟩
    · exact .inr (writeReg_ring _ _ _)
  · unfold hostRead
    split
    · exact .inr trivial
    · exact .inr rfl
  · exact .inr trivial
  · unfold hostReadWindow
    split
    · exact .inr trivial
    · exact .inr rfl
  · next a b rest _ =>
    have ha : a.toNat < 2 ^ Config.hostAw := a.isLt
    simp only [hostStoreMem, memWrite, if_pos ha]
    exact .inr rfl
  · unfold hostLoadMem
    split
    · exact .inr trivial
    · exact .inr rfl
  · exact .inr rfl
  · exact .inl (hflush _ _)
  · exact .inl (hflush _ _)

theorem hostMove_queues (h : s.Inv) : Out.All s.Queues (hostMove s) := by
  rcases hostMove_cases s with ⟨prog, w, heq⟩ | hring
  · rw [heq]
    exact issue_queues w (h.setProg prog)
  · rw [Out.all_iff]
    intro t ht
    exact State.queues_of_ring_eq (Out.all_iff.mp hring t ht) (Out.all_iff.mp (hostMove_params s) t ht)

theorem producerMove_queues (m : ProducerMove) (s : State) : Out.All s.Queues (producerMove m s) := by
  rw [Out.all_iff]
  intro t ht
  obtain ⟨hparams, hring, -⟩ := producerMovesStayOutside m s t ht
  exact State.queues_of_ring_eq hring hparams

/-- Every agent's turn moves the queue. -/
theorem takeTurn_queues (a : Turn) (h : s.Inv) : Out.All s.Queues (takeTurn a s) := by
  cases a with
  | core => exact coreMove_queues h
  | host => exact hostMove_queues h
  | producer m => exact producerMove_queues m s
  | spuriousWake => exact State.queues_of_ring_eq rfl rfl
  | powerOnReset => exact State.queues_of_emptied rfl

end

/-- Settles O30: the turn moves the queue; taking it off the list is no matter of the ring. -/
theorem ringIsFirstInFirstOut : Obligations.RingIsFirstInFirstOut := by
  intro s t h ht
  exact Out.all_iff.mp (takeTurn_queues (currentTurn s) h.popTurn) t ht

end Sys2Proof.Machine

/-! PROOFS. O32, O35, O36, O38: a drain step above the watermark, a drain check with nothing upstream, and the wait. -/

namespace Sys2Proof.Machine

section
variable {s : State}

/-! ### Above the watermark (R151, R203) -/

/-- A host-issued FC.DRAIN above the watermark completes with 0 on the spot (R151). -/
theorem exec_fcDrain_above (hr : s.Ready) (hw : s.regs.watermark.toNat < s.ring.used.toNat) :
    exec .fcDrain s = .next { s with regs.result := 0 } := by
  have hpass : exec .fcDrain s = _ := commonChecks_pass _ hr.1 (violated_ready hr nofun nofun)
  have habove : s.aboveWatermark s.regs.watermark = true := decide_eq_true hw
  rw [hpass, if_pos habove, State.Idle.complete_eq hr.1]

/-- LOOP.RUN's drain step above the watermark of its issue goes on to the process step (R203). -/
theorem coreMove_runDrain_above (h : s.ctl.phase = .runDrain) (hw : s.ctl.loopWatermark.toNat < s.ring.used.toNat) :
    coreMove s = .next (s.setPhase .runProcess) := by
  have habove : s.aboveWatermark s.ctl.loopWatermark = true := decide_eq_true hw
  have hstep : coreMove s = runDrainStep s := by rw [coreMove, h]
  rw [hstep, runDrainStep, if_pos habove]

/-! ### The drain check with nothing upstream (R152, R154, R155) -/

/-- OVF_SEEN holds after the drain check: set before, or by this check's own flag read (R155). -/
def State.SeesOverflow (s : State) : Prop := s.ctl.ovfSeen = true ∨ s.flagByte ≠ 0

theorem State.askUpstream_latchOverflow (s : State) : s.askUpstream.latchOverflow s.flagByte = s.overflowChecked := by
  rcases s.askUpstream.latchOverflow_cases s.flagByte with ⟨hflag, hunseen, heq⟩ | ⟨hquiet, heq⟩ <;> rw [heq]
  · exact (if_pos ⟨hflag, hunseen⟩).symm
  · refine (if_neg fun ⟨hflag, hunseen⟩ => ?_).symm
    rcases hquiet with hzero | hseen
    · exact hflag hzero
    · exact Bool.false_ne_true (hunseen.symm.trans hseen)

theorem State.overflowChecked_ovfSeen_iff (s : State) : s.overflowChecked.ctl.ovfSeen = true ↔ s.SeesOverflow := by
  unfold State.overflowChecked State.SeesOverflow
  split
  · next hedge => exact ⟨fun _ => .inr hedge.1, fun _ => rfl⟩
  · next hno =>
    refine ⟨.inl, fun hsees => hsees.elim id fun hflag => ?_⟩
    exact Bool.eq_true_of_not_eq_false fun hunseen => hno ⟨hflag, hunseen⟩

/-- Where no overflow is seen the check leaves only its question to the upstream port. -/
theorem State.overflowChecked_of_unseen (h : ¬ s.SeesOverflow) : s.overflowChecked = s.askUpstream :=
  if_neg fun hedge => h (.inr hedge.1)

/-- The three ways of `drainIdle_cases`, for the whole check and in the terms of the statements (R152, R154). -/
theorem drainCheck_empty_cases (word : Word) (hin : s.params.ovfOffset < s.params.fifoSize) (hlen : s.ext.upLen = 0) :
    (s.SeesOverflow ∧ s.ring.used = 0 ∧
      drainCheck word s = .fatal (s.overflowChecked.terminate .bufferOverflow .bufferOverflow word)) ∨
    (¬ s.SeesOverflow ∧ s.ring.used = 0 ∧ drainCheck word s = .block s.askUpstream) ∨
    (s.ring.used ≠ 0 ∧ drainCheck word s = .done 0 s.overflowChecked) := by
  have hidle : drainCheck word s = drainIdle word s.askUpstream := by simp [drainCheck, hlen]
  have hlatch : s.askUpstream.latchOverflow s.askUpstream.flagByte = s.overflowChecked := s.askUpstream_latchOverflow
  have hempty : s.askUpstream.isEmpty = true ↔ s.ring.used = 0 := State.isEmpty_iff (s := s)
  have hcases := drainIdle_cases word s.askUpstream hin
  rw [hlatch, ← hidle] at hcases
  rcases hcases with ⟨hseen, hused, heq⟩ | ⟨hunseen, hused, heq⟩ | ⟨hused, heq⟩
  · exact .inl ⟨s.overflowChecked_ovfSeen_iff.mp hseen, hempty.mp hused, heq⟩
  · have hnot : ¬ s.SeesOverflow := by simp [← s.overflowChecked_ovfSeen_iff, hunseen]
    exact .inr (.inl ⟨hnot, hempty.mp hused, by rw [heq, State.overflowChecked_of_unseen hnot]⟩)
  · exact .inr (.inr ⟨fun hzero => by simp [hempty.mpr hzero] at hused, heq⟩)

/-- What the command makes of the check's result (`finish`) decides the three outcomes, which exclude each other. -/
theorem drainCheck_empty_outcomes (finish : DrainResult → Out) (word : Word)
    (hin : s.params.ovfOffset < s.params.fifoSize) (hlen : s.ext.upLen = 0) :
    (s.SeesOverflow ∧ s.ring.used = 0 → finish (drainCheck word s) =
      finish (.fatal (s.overflowChecked.terminate .bufferOverflow .bufferOverflow word))) ∧
    (¬ s.SeesOverflow ∧ s.ring.used = 0 → finish (drainCheck word s) = finish (.block s.askUpstream)) ∧
    (s.ring.used ≠ 0 → finish (drainCheck word s) = finish (.done 0 s.overflowChecked)) := by
  rcases drainCheck_empty_cases word hin hlen with ⟨hseen, hused, heq⟩ | ⟨hunseen, hused, heq⟩ | ⟨hused, heq⟩
  · exact ⟨fun _ => congrArg finish heq, fun h => absurd hseen h.1, fun h => absurd hused h⟩
  · exact ⟨fun h => absurd h.1 hunseen, fun _ => congrArg finish heq, fun h => absurd hused h⟩
  · exact ⟨fun h => absurd h.2 hused, fun h => absurd h.2 hused, fun _ => congrArg finish heq⟩

/-! ### The wait (R156, R241) -/

theorem State.isWaiting_iff : s.isWaiting = true ↔ s.ctl.phase = .drainWait ∨ s.ctl.phase = .runWait := by
  cases h : s.ctl.phase <;> simp [State.isWaiting, Phase.waiting, h]

theorem coreMove_waiting (h : s.isWaiting = true) : coreMove s = waitStep s := by
  rcases State.isWaiting_iff.mp h with hp | hp <;> rw [coreMove, hp]

/-- The drain check a wait returns to is LOOP.RUN's own phase, or the host-issued drain's (R156, log 5). -/
theorem State.wakesTo_of_waiting (h : s.isWaiting = true) :
    s.ctl.phase.wakesTo = if s.ctl.phase = .runWait then .runDrain else .drainCheck := by
  rcases State.isWaiting_iff.mp h with hp | hp <;> rw [hp] <;> rfl

end

/-- Settles O38: the core's step in a wait is `waitStep`, and both wakes return to the phase of `wakesTo`. -/
theorem waitAndWake : Obligations.WaitAndWake := by
  intro s h back
  have hback : s.ctl.phase.wakesTo = back := State.wakesTo_of_waiting h
  rw [coreMove_waiting h, waitStep, ← hback]
  exact ⟨fun hpend => if_pos hpend, fun hnone => if_neg (by simp [hnone]), rfl⟩

/-- Settles O32: the arbiter answers before any drain check; that it needs WATERMARK below CAP is `used <= CAP` (R23). -/
theorem watermarkArbiter : Obligations.WatermarkArbiter := by
  intro s h
  have hle := h.used_le_cap
  refine ⟨exec_fcDrain_above, coreMove_runDrain_above, fun hw => ?_, fun hw => ?_⟩
  · exact ⟨by omega, by omega⟩
  · omega

/-- Settles O35: at issue and after a wake the same drain check runs, and the host-issued drain finishes it. -/
theorem drainWithEmptyUpstream : Obligations.DrainWithEmptyUpstream := by
  intro s hin hlen seen outcome
  have hcheck : outcome (drainFinish (drainCheck 0x10000000 s)) := drainCheck_empty_outcomes drainFinish 0x10000000 hin hlen
  refine ⟨fun hr hw => ?_, fun hp => ?_⟩
  · rwa [exec_fcDrain_check hr hw]
  · rwa [coreMove_drainCheck hp]

/-- Settles O36: the same drain check, finished by LOOP.RUN. -/
theorem loopDrainWithEmptyUpstream : Obligations.LoopDrainWithEmptyUpstream := by
  intro s hp hin hw hlen seen
  rw [coreMove_runDrain_check hp hw]
  exact drainCheck_empty_outcomes runDrainFinish 0x31000000 hin hlen

end Sys2Proof.Machine

/-! PROOFS. O43, O44: SV.PROCESS over matching data, and up to its first mismatch. -/

namespace Sys2Proof.Machine

section
variable {s : State}

/-- A ready block passes the checks of R235: SV.PROCESS is the process step with the CONFIG of the host (R33, R170). -/
theorem exec_svProcess_ready (hr : s.Ready) :
    exec .svProcess s = processFinish (processBody s.regs.config 0x18000000 s) :=
  commonChecks_pass _ hr.1 (violated_ready hr nofun nofun)

/-- A process step that does not terminate an idle block completes with the number of bytes examined (R40, R170). -/
theorem State.Idle.processFinish_done (hi : s.Idle) (total : Nat) :
    processFinish (.done total s) = .next { s with regs.result := BitVec.ofNat 32 total } :=
  congrArg Host.Outcome.next (hi.complete_eq _)

end

/-- Settles O43: in a working state the process step examines all the matching bytes, and `used` is their number. -/
theorem processExaminesMatchingData : Obligations.ProcessExaminesMatchingData := by
  intro s h hr hm
  have hidle : s.examinedAll.Idle := hr.1
  rw [exec_svProcess_ready hr, processBody_match _ _ (h.working_of_ready hr) hm, hidle.processFinish_done,
    BitVec.ofNat_toNat, BitVec.setWidth_eq]

/-- Settles O44: the process step ends at its first mismatch, where CONFIG decides between completion and termination. -/
theorem processStopsAtMismatch : Obligations.ProcessStopsAtMismatch := by
  intro s m b h hr hm hb
  have hidle : (s.examinedTo m b).Idle := hr.1
  rw [exec_svProcess_ready hr, processBody_mismatch _ _ (h.working_of_ready hr) hm hb, mismatchFatal]
  refine ⟨fun hnonfatal => ?_, fun hfatal => ?_⟩
  · rw [hnonfatal]
    exact hidle.processFinish_done (m + 1)
  · rw [hfatal]
    rfl

end Sys2Proof.Machine

/-! PROOFS. O41: OS.READ. -/

namespace Sys2Proof.Machine

/-- With the flag inside the FIFO region, reading at OVF_OFFSET answers the producer's flag byte (R65, R74). -/
theorem fifoRead_ovfOffset {s : State} (hin : s.params.ovfOffset < s.params.fifoSize) :
    fifoRead s s.params.ovfOffset = .ok s.flagByte :=
  if_pos hin

/-- OS.READ needs no INIT and mutates nothing, so no state fails its checks: without INIT and with a span out too (R24, R93, R190). -/
theorem violated_osRead (s : State) : violated .osRead s = none := rfl

/-- With the flag inside the FIFO region the body of OS.READ only completes, with the flag byte (R190). -/
theorem exec_osRead_body {s : State} (hin : s.params.ovfOffset < s.params.fifoSize) :
    exec .osRead s = commonChecks .osRead s (.next (s.complete (s.flagByte.setWidth 32))) := by
  have hbody : exec .osRead s = execOsRead s := rfl
  rw [hbody, execOsRead, fifoRead_ovfOffset hin]

/-- Settles O41: OS.READ passes the checks in every idle state, and completing an idle block writes RESULT alone. -/
theorem osReadReturnsFlag : Obligations.OsReadReturnsFlag := by
  intro s hi hin
  exact exec_completes (exec_osRead_body hin) hi (violated_osRead s)

end Sys2Proof.Machine

/-! PROOFS. O20, O50, O51, O47 to O49: the control loop and the sink. First what the drain check and the process step do to the
LOG, STARTED and the host registers while they work and when they terminate the block. -/

namespace Sys2Proof.Machine

/-- From `s` to `t` an operation has worked on: the host registers and STARTED as found, and no Running record emitted. -/
structure State.Works (s t : State) : Prop where
  regs : t.regs = s.regs
  started : t.ctl.started = s.ctl.started
  log : ∃ rs, t.ext.log = s.ext.log ++ rs ∧ .running ∉ rs

/-- An operation that has worked on from `s` terminates the block: with an outcome other than ValidationMismatch, or with the
Mismatch record of the capture first (R213, R230). -/
inductive State.Ends (s : State) : State → Prop
  | terminate {u : State} (hu : s.Works u) (o : EndOutcome) (c : Cause) (w : Word) (ho : o ≠ .validationMismatch) :
      s.Ends (u.terminate o c w)
  | mismatch {u : State} (hu : s.Works u) (c : Cause) (w : Word) :
      s.Ends ((u.emit u.mismatchRecord).terminate .validationMismatch c w)

/-- A drain check that goes on has worked on from `s`, and one that terminates the block has done so before. -/
def DrainResult.WorksFrom (s : State) : DrainResult → Prop
  | .done _ t => s.Works t
  | .fatal t => s.Ends t
  | .block t => s.Works t
  | .broken _ => True

/-- A process step that completes has worked on from `s`, and one that terminates the block has done so before. -/
def ProcessResult.WorksFrom (s : State) : ProcessResult → Prop
  | .done _ t => s.Works t
  | .fatal t => s.Ends t
  | .broken _ => True

section
variable {s t u : State}

namespace State.Works

theorem refl (s : State) : s.Works s := ⟨rfl, rfl, [], (List.append_nil _).symm, List.not_mem_nil⟩

theorem append (h : s.Works t) {rs : List Record} (hregs : u.regs = t.regs) (hstarted : u.ctl.started = t.ctl.started)
    (hlog : u.ext.log = t.ext.log ++ rs) (hrs : .running ∉ rs) : s.Works u := by
  obtain ⟨hr, hs, rs', hl, hrs'⟩ := h
  exact ⟨hregs.trans hr, hstarted.trans hs, rs' ++ rs, by simp [hlog, hl], by simp [hrs, hrs']⟩

theorem congr (h : s.Works t) (hregs : u.regs = t.regs) (hstarted : u.ctl.started = t.ctl.started)
    (hlog : u.ext.log = t.ext.log) : s.Works u :=
  h.append (rs := []) hregs hstarted (by simp [hlog]) List.not_mem_nil

theorem latchOverflow (h : s.Works t) (flag : Byte) : s.Works (t.latchOverflow flag) := by
  rcases t.latchOverflow_cases flag with ⟨-, -, heq⟩ | ⟨-, heq⟩ <;> rw [heq]
  · exact h.append rfl rfl rfl (by simp)
  · exact h

theorem ringPut (h : s.Works t) {bytes : List Byte} (hu : ringPut t bytes = .ok u) : s.Works u := by
  rw [eq_of_ringPut hu]
  exact h.congr rfl rfl rfl

theorem ringDrop (h : s.Works t) (n : Nat) : s.Works (ringDrop t n) := h.congr (by simp) (by simp) (by simp)

theorem examine (h : s.Works t) (b : Byte) : s.Works (t.examine b) := by
  refine h.append (by simp) (by simp) (t.examine_log b) ?_
  split <;> simp

theorem foldl_examine (h : s.Works t) (bs : List Byte) : s.Works (bs.foldl State.examine t) := by
  induction bs generalizing t with
  | nil => exact h
  | cons b bs ih => exact ih (h.examine b)

end State.Works

/-- A termination keeps what the operation kept: it emits no Running record (R213). -/
theorem State.Ends.works (h : s.Ends t) : s.Works t := by
  cases h with
  | terminate hu => exact hu.append rfl rfl rfl (by simp [State.fatalRecord])
  | @mismatch u hu =>
    have hrec : s.Works (u.emit u.mismatchRecord) := hu.append rfl rfl rfl (by simp [State.mismatchRecord])
    exact hrec.append rfl rfl rfl (by simp [State.fatalRecord])

theorem State.Ends.phase_eq (h : s.Ends t) : t.ctl.phase = .terminated := by
  cases h <;> rfl

/-! ### The drain check (R152) -/

theorem drainTransfer_worksFrom (h : s.Works t) : (drainTransfer t).WorksFrom s := by
  unfold drainTransfer
  dsimp only
  split
  · trivial
  · split
    · trivial
    · next hput => exact (h.ringPut hput).congr rfl rfl rfl

theorem drainIdle_worksFrom (word : Word) (h : s.Works t) : (drainIdle word t).WorksFrom s := by
  unfold drainIdle
  split
  · trivial
  · next flag _ =>
    have hlatch := h.latchOverflow flag
    dsimp only
    split
    · exact .terminate hlatch _ _ _ nofun
    · split <;> exact hlatch

theorem drainCheck_worksFrom (word : Word) (s : State) : (drainCheck word s).WorksFrom s := by
  have hask : s.Works s.askUpstream := (State.Works.refl s).congr rfl rfl rfl
  rcases drainCheck_cases word s with ⟨-, -, heq⟩ | ⟨-, -, heq⟩ | ⟨-, heq⟩ <;> rw [heq]
  · exact .terminate hask _ _ _ nofun
  · exact drainTransfer_worksFrom hask
  · exact drainIdle_worksFrom word hask

/-! ### The process step (R170) -/

theorem processMismatch_worksFrom (fatal : Bool) (word : Word) (total : Nat) (h : s.Works t) :
    (processMismatch fatal word total t).WorksFrom s := by
  have hflag : s.Works { t with ctl.mismatch := true } := h.congr rfl rfl rfl
  unfold processMismatch
  cases fatal with
  | false => exact hflag.append rfl rfl rfl (by simp [State.mismatchRecord])
  | true => exact .mismatch hflag _ word

theorem processSpans_worksFrom (fatal : Bool) (word : Word) (fuel total : Nat) (h : s.Works t) :
    (processSpans fatal word fuel total t).WorksFrom s := by
  induction fuel generalizing total t with
  | zero => exact h
  | succ fuel ih =>
    unfold processSpans
    split
    · exact h
    · split
      · trivial
      · next k mm t1 hspan =>
        obtain ⟨bs, rfl⟩ := eq_foldl_of_examineSpan hspan
        have hdrop := (h.foldl_examine bs).ringDrop k
        split
        · exact processMismatch_worksFrom fatal word _ hdrop
        · exact ih _ hdrop

theorem processBody_worksFrom (config word : Word) (s : State) : (processBody config word s).WorksFrom s :=
  processSpans_worksFrom _ _ _ _ ((State.Works.refl s).congr rfl rfl rfl)

/-! ### LOOP.RUN's own steps (R202, R203) -/

/-- The host registers are kept, and LOOP.RUN goes on or has terminated the block. -/
def State.LoopsOn (s t : State) : Prop := t.regs = s.regs ∧ (t.ctl.phase.looping = true ∨ t.ctl.phase = .terminated)

theorem State.Works.loopsOn (h : s.Works t) {p : Phase} (hp : p.looping = true) : s.LoopsOn (t.setPhase p) :=
  ⟨h.regs, .inl hp⟩

theorem State.Ends.loopsOn (h : s.Ends t) : s.LoopsOn t := ⟨h.works.regs, .inr h.phase_eq⟩

theorem runDrainFinish_loopsOn {r : DrainResult} (h : r.WorksFrom s) : Out.All s.LoopsOn (runDrainFinish r) := by
  cases r with
  | done n t => exact State.Works.loopsOn h rfl
  | fatal t => exact State.Ends.loopsOn h
  | block t => exact State.Works.loopsOn h rfl
  | broken f => trivial

theorem runProcessFinish_loopsOn {r : ProcessResult} (h : r.WorksFrom s) :
    Out.All s.LoopsOn (runProcessFinish r) := by
  cases r with
  | done n t => exact State.Works.loopsOn h rfl
  | fatal t => exact State.Ends.loopsOn h
  | broken f => trivial

theorem coreMove_loopsOn (hl : s.ctl.phase.looping = true) : Out.All s.LoopsOn (coreMove s) := by
  unfold coreMove
  cases hp : s.ctl.phase with
  | runDrain =>
    dsimp only
    unfold runDrainStep
    split
    · exact ⟨rfl, .inl rfl⟩
    · exact runDrainFinish_loopsOn (drainCheck_worksFrom _ s)
  | runWait =>
    dsimp only
    unfold waitStep
    split
    · exact ⟨rfl, .inl (by simp [hp, Phase.wakesTo, Phase.looping])⟩
    · exact ⟨rfl, .inl hl⟩
  | runProcess => exact runProcessFinish_loopsOn (processBody_worksFrom _ _ s)
  | _ => simp [hp, Phase.looping] at hl

end

/-- Settles O49: in each of the three phases the step goes on in the loop or terminates; none of them completes. -/
theorem loopNeverCompletes : Obligations.LoopNeverCompletes := by
  intro s t hl ht
  exact Out.all_iff.mp (coreMove_loopsOn hl) t ht

/-! ### LOOP.START and LOOP.RUN at their issue (R200, R202) -/

/-- The RESTART check is the only one LOOP.START can fail (R235). -/
theorem violated_loopStart (s : State) : violated .loopStart s = if s.ctl.started = true then some .restart else none := by
  simp [violated, needsInit, mutates]

/-- Settles O47: with STARTED the RESTART check applies; without it the body marks the start and completes. -/
theorem loopStartMarksOnce : Obligations.LoopStartMarksOnce := by
  intro s hi
  refine ⟨fun hnew => ?_, fun hstarted => ?_⟩
  · have hpass : exec .loopStart s = _ := commonChecks_pass _ hi (by simp [violated_loopStart, hnew])
    have hidle : s.markStarted.Idle := hi
    rw [hpass, hidle.complete_eq]
    rfl
  · exact traps_of_violated hi (by simp [violated_loopStart, hstarted])

/-- Settles O48: a ready block passes the checks; with STARTED already 1 the loop is entered without a record. -/
theorem loopRunEntersLoop : Obligations.LoopRunEntersLoop := by
  intro s hr
  have hpass : exec .loopRun s = _ := commonChecks_pass _ hr.1 (violated_ready hr nofun nofun)
  rw [hpass]
  cases hs : s.ctl.started with
  | false => exact ⟨_, rfl, rfl, rfl⟩
  | true => exact ⟨_, rfl, rfl, State.eq_of_parts rfl rfl rfl rfl (by simp [hs]) rfl rfl⟩

end Sys2Proof.Machine

/-! PROOFS. O20, O50, O51: what a step does to the LOG, to STARTED and to termination, said once for every turn but power-on
reset; the three statements follow from it. -/

namespace Sys2Proof.Machine

/-- What a step from `s` does to STARTED, the LOG and termination: it leaves STARTED alone and does not terminate the block, or
it marks the start with one Running record, or it terminates the block. -/
inductive State.Records (s t : State) : Prop
  | quiet (rs : List Record) (hlog : t.ext.log = s.ext.log ++ rs) (hrs : .running ∉ rs)
      (hstarted : t.ctl.started = s.ctl.started) (hphase : t.ctl.phase = .terminated → s.ctl.phase = .terminated)
  | starts (hlog : t.ext.log = s.ext.log ++ [.running]) (hs : s.ctl.started = false) (ht : t.ctl.started = true)
      (hphase : t.ctl.phase ≠ .terminated)
  | ends (h : s.Ends t)

section
variable {s t u : State}

namespace State.Records

/-- A step that touches neither STARTED nor the LOG and does not terminate the block. -/
theorem of_eq (hlog : t.ext.log = s.ext.log) (hstarted : t.ctl.started = s.ctl.started)
    (hphase : t.ctl.phase = .terminated → s.ctl.phase = .terminated) : s.Records t :=
  .quiet [] (by simp [hlog]) List.not_mem_nil hstarted hphase

theorem refl (s : State) : s.Records s := .of_eq rfl rfl id

theorem raiseFault (s : State) (c : Cause) (w : Word) : s.Records (s.raiseFault c w) :=
  .ends (.terminate (.refl s) _ c w nofun)

/-- An operation that has worked on ends in a phase that is not the terminated one. -/
theorem of_works (h : s.Works t) (hlog : u.ext.log = t.ext.log) (hstarted : u.ctl.started = t.ctl.started)
    (hphase : u.ctl.phase ≠ .terminated) : s.Records u :=
  have ⟨rs, hl, hrs⟩ := h.log
  .quiet rs (hlog.trans hl) hrs (hstarted.trans h.started) fun hp => absurd hp hphase

theorem complete (h : s.Works t) (v : Word) : s.Records (t.complete v) := of_works h rfl rfl nofun

theorem setPhase (h : s.Works t) {p : Phase} (hp : p ≠ .terminated) : s.Records (t.setPhase p) := of_works h rfl rfl hp

/-- Only the host registers, STARTED, PHASE and the LOG of the state before matter. -/
theorem congr_start {s' : State} (h : s'.Records t) (hregs : s'.regs = s.regs) (hctl : s'.ctl = s.ctl)
    (hlog : s'.ext.log = s.ext.log) : s.Records t := by
  have hworks {u : State} (hu : s'.Works u) : s.Works u :=
    have ⟨rs, hl, hrs⟩ := hu.log
    ⟨hu.regs.trans hregs, hctl ▸ hu.started, rs, hlog ▸ hl, hrs⟩
  cases h with
  | quiet rs hl hrs hstarted hphase => exact .quiet rs (hlog ▸ hl) hrs (hctl ▸ hstarted) (hctl ▸ hphase)
  | starts hl hs ht hphase => exact .starts (hlog ▸ hl) (hctl ▸ hs) ht hphase
  | ends h =>
    cases h with
    | terminate hu o c w ho => exact .ends (.terminate (hworks hu) o c w ho)
    | mismatch hu c w => exact .ends (.mismatch (hworks hu) c w)

end State.Records

/-! ### The commands -/

theorem commonChecks_records {i : Instr} {body : Out} (hb : Out.All s.Records body) :
    Out.All s.Records (commonChecks i s body) :=
  commonChecks_all i (.refl s) (fun c => .raiseFault s c _) hb

/-- A command whose body completes, with no more than the ring and host memory changed. -/
theorem completes_records {i : Instr} {v : Word} (hregs : u.regs = s.regs) (hctl : u.ctl = s.ctl)
    (hlog : u.ext.log = s.ext.log) : Out.All s.Records (commonChecks i s (.next (u.complete v))) :=
  commonChecks_records (.complete ((State.Works.refl s).congr hregs (by rw [hctl]) hlog) v)

theorem drainFinish_records {r : DrainResult} (h : r.WorksFrom s) : Out.All s.Records (drainFinish r) := by
  cases r with
  | done n t => exact .complete h _
  | fatal t => exact .ends h
  | block t => exact .setPhase h nofun
  | broken f => trivial

theorem runDrainFinish_records {r : DrainResult} (h : r.WorksFrom s) : Out.All s.Records (runDrainFinish r) := by
  cases r with
  | done n t => exact .setPhase h nofun
  | fatal t => exact .ends h
  | block t => exact .setPhase h nofun
  | broken f => trivial

theorem processFinish_records {r : ProcessResult} (h : r.WorksFrom s) : Out.All s.Records (processFinish r) := by
  cases r with
  | done n t => exact .complete h _
  | fatal t => exact .ends h
  | broken f => trivial

theorem runProcessFinish_records {r : ProcessResult} (h : r.WorksFrom s) :
    Out.All s.Records (runProcessFinish r) := by
  cases r with
  | done n t => exact .setPhase h nofun
  | fatal t => exact .ends h
  | broken f => trivial

theorem execRbWrite_records (len : Word) (s : State) : Out.All s.Records (execRbWrite len s) := by
  refine commonChecks_records ?_
  dsimp only
  split
  · split
    · trivial
    · split
      · trivial
      · next hput => exact .complete ((State.Works.refl s).ringPut hput) _
  · exact .raiseFault s _ _

theorem execRbRead_records (len : Word) (s : State) : Out.All s.Records (execRbRead len s) := by
  refine commonChecks_records ?_
  dsimp only
  split
  · split
    · trivial
    · split
      · trivial
      · next hwrite =>
        rw [eq_of_writeRun_memWrite hwrite]
        have hmem (m : Memory) : s.Works { s with ext.hostMem := m } := (State.Works.refl s).congr rfl rfl rfl
        exact State.Records.complete ((hmem _).ringDrop _) _
  · exact .raiseFault s _ _

theorem execRbFlush_records (len : Word) (s : State) : Out.All s.Records (execRbFlush len s) := by
  refine commonChecks_records ?_
  split
  · exact .raiseFault s _ _
  · have hdrop := (State.Works.refl s).ringDrop (s.available len.toNat)
    exact State.Records.of_works hdrop rfl rfl nofun

/-- LOOP.START marks the start only where the RESTART check let it pass (R200, R201). -/
theorem exec_loopStart_records (s : State) : Out.All s.Records (exec .loopStart s) := by
  refine exec_all_of_passed (.refl s) (fun c => .raiseFault s c _) fun hi hv => ?_
  have hnew : s.ctl.started = false := by
    rw [violated_loopStart] at hv
    simpa using hv
  rw [(loopStartMarksOnce s hi).1 hnew]
  exact .starts rfl hnew rfl (ne_of_eq_of_ne hi nofun)

theorem execLoopRun_records (s : State) : Out.All s.Records (execLoopRun s) := by
  refine commonChecks_records ?_
  split
  · exact .of_works (.refl s) rfl rfl nofun
  · next hnew => exact .starts rfl (by simpa using hnew) rfl nofun

theorem exec_records (i : Instr) (s : State) : Out.All s.Records (exec i s) := by
  cases i with
  | rbInit =>
    refine commonChecks_records ?_
    split
    · exact .raiseFault s _ _
    · exact .of_works (.refl s) rfl rfl nofun
  | rbWrite len => exact execRbWrite_records len s
  | rbRead len => exact execRbRead_records len s
  | rbFlush len => exact execRbFlush_records len s
  | rbSpan => exact completes_records rfl rfl rfl
  | rbClear => exact completes_records rfl rfl rfl
  | rbCap => exact completes_records rfl rfl rfl
  | rbUsed => exact completes_records rfl rfl rfl
  | rbFree => exact completes_records rfl rfl rfl
  | rbEmpty => exact completes_records rfl rfl rfl
  | rbFull => exact completes_records rfl rfl rfl
  | fcDrain =>
    refine commonChecks_records ?_
    split
    · exact .complete (.refl s) _
    · exact drainFinish_records (drainCheck_worksFrom _ s)
  | svProcess => exact commonChecks_records (processFinish_records (processBody_worksFrom _ _ s))
  | osRead =>
    refine commonChecks_records ?_
    split
    · trivial
    · exact .complete (.refl s) _
  | loopStart => exact exec_loopStart_records s
  | loopRun => exact execLoopRun_records s

/-- A CMD write, legal or not. -/
theorem issue_records (w : Word) (s : State) : Out.All s.Records (issue w s) := by
  cases hd : decode w with
  | ok i => rw [issue_decoded hd]; exact exec_records i s
  | error e =>
    rw [issue_illegal hd]
    exact acceptCmd_all w (.refl s) (fun c => .raiseFault s c w) (.raiseFault s _ w)

/-! ### The agents' turns -/

/-- No wake leads to the terminated phase (R156). -/
theorem Phase.eq_terminated_of_wakesTo {p : Phase} (h : p.wakesTo = .terminated) : p = .terminated := by
  cases p <;> simp_all [Phase.wakesTo]

theorem waitStep_records (s : State) : Out.All s.Records (waitStep s) := by
  unfold waitStep
  split
  · exact .of_eq rfl rfl Phase.eq_terminated_of_wakesTo
  · exact .refl s

theorem coreMove_records (s : State) : Out.All s.Records (coreMove s) := by
  unfold coreMove
  cases s.ctl.phase with
  | idle => exact .refl s
  | terminated => exact .refl s
  | drainWait => exact waitStep_records s
  | runWait => exact waitStep_records s
  | drainCheck => exact drainFinish_records (drainCheck_worksFrom _ s)
  | runDrain =>
    dsimp only
    unfold runDrainStep
    split
    · exact .setPhase (.refl s) nofun
    · exact runDrainFinish_records (drainCheck_worksFrom _ s)
  | runProcess => exact runProcessFinish_records (processBody_worksFrom _ _ s)

theorem writeReg_records (s : State) (r : HostReg) (v : Word) : s.Records (writeReg s r v) := by
  cases r <;> exact .of_eq rfl rfl id

theorem hostWrite_records (size : AccessSize) (off : Nat) (v : Word) (s : State) :
    Out.All s.Records (hostWrite size off v s) := by
  unfold hostWrite
  split
  · trivial
  · exact issue_records v s
  · exact writeReg_records s _ v

theorem hostRead_records (size : AccessSize) (off : Nat) (s : State) : Out.All s.Records (hostRead size off s) := by
  unfold hostRead
  split
  · trivial
  · exact .of_eq rfl rfl id

theorem hostReadWindow_records (size : AccessSize) (i : Nat) (s : State) :
    Out.All s.Records (hostReadWindow size i s) := by
  unfold hostReadWindow
  split
  · trivial
  · exact .of_eq rfl rfl id

theorem hostStoreMem_records (a : Word) (b : Byte) (s : State) : Out.All s.Records (hostStoreMem a b s) := by
  have ha : a.toNat < 2 ^ Config.hostAw := a.isLt
  simp only [hostStoreMem, memWrite, if_pos ha]
  exact .of_eq rfl rfl id

theorem hostLoadMem_records (a : Word) (s : State) : Out.All s.Records (hostLoadMem a s) := by
  unfold hostLoadMem
  split
  · trivial
  · exact .of_eq rfl rfl id

/-- The host's turn: taking the action off its program changes nothing that is recorded. -/
theorem hostMove_records (s : State) : Out.All s.Records (hostMove s) := by
  have htaken {prog : List HostAction} {o : Out} (h : Out.All (s.setProg prog).Records o) : Out.All s.Records o :=
    Out.all_iff.mpr fun t ht => (Out.all_iff.mp h t ht).congr_start rfl rfl rfl
  have hflush (n : Word) (rest : List HostAction) : Out.All s.Records (hostFlush n rest s) := by
    rcases hostFlush_cases n rest s with ⟨-, heq⟩ | ⟨-, heq⟩ <;> rw [heq] <;> exact htaken (issue_records _ _)
  unfold hostMove
  split
  · exact .refl s
  · exact htaken (hostWrite_records _ _ _ _)
  · exact htaken (hostRead_records _ _ _)
  · trivial
  · exact htaken (hostReadWindow_records _ _ _)
  · exact htaken (hostStoreMem_records _ _ _)
  · exact htaken (hostLoadMem_records _ _)
  · exact .of_eq rfl rfl id
  · exact hflush _ _
  · exact hflush _ _

theorem producerMove_records (m : ProducerMove) (s : State) : Out.All s.Records (producerMove m s) := by
  rw [Out.all_iff]
  intro t ht
  obtain ⟨-, -, -, -, -, hctl, hext⟩ := producerMovesStayOutside m s t ht
  exact .of_eq (by rw [hext]) (by rw [hctl]) (by rw [hctl]; exact id)

theorem takeTurn_records {a : Turn} (ha : a ≠ .powerOnReset) (s : State) : Out.All s.Records (takeTurn a s) := by
  cases a with
  | core => exact coreMove_records s
  | host => exact hostMove_records s
  | producer m => exact producerMove_records m s
  | spuriousWake => exact .of_eq rfl rfl Phase.eq_terminated_of_wakesTo
  | powerOnReset => exact absurd rfl ha

/-- Every step but power-on reset; that its turn is taken off the list is no matter. -/
theorem step_records (ht : step s = .next t) (hturn : currentTurn s ≠ .powerOnReset) : s.Records t :=
  (Out.all_iff.mp (takeTurn_records hturn (popTurn s)) t ht).congr_start rfl rfl rfl

theorem step_powerOnReset (hturn : currentTurn s = .powerOnReset) : step s = .next (popTurn s).powerOnReset := by
  rw [step, hturn, takeTurn]

/-! ### The LOG after a step -/

/-- What a step appends to the LOG: no Running record, and STARTED as before; or one Running record, and STARTED set. -/
theorem State.Records.appends (h : s.Records t) :
    ∃ rs, t.ext.log = s.ext.log ++ rs ∧
      (.running ∉ rs ∧ t.ctl.started = s.ctl.started ∨
        rs = [.running] ∧ s.ctl.started = false ∧ t.ctl.started = true) := by
  cases h with
  | quiet rs hlog hrs hstarted _ => exact ⟨rs, hlog, .inl ⟨hrs, hstarted⟩⟩
  | starts hlog hs ht _ => exact ⟨[.running], hlog, .inr ⟨rfl, hs, ht⟩⟩
  | ends h =>
    obtain ⟨-, hstarted, rs, hlog, hrs⟩ := h.works
    exact ⟨rs, hlog, .inl ⟨hrs, hstarted⟩⟩

end

/-- Settles O20: of the three kinds of step only a termination leads to the terminated phase, and it emits its records last; a
power-on reset leads to IDLE. -/
theorem everyTerminationIsLogged : Obligations.EveryTerminationIsLogged := by
  intro s t hs ht hterm
  have hturn : currentTurn s ≠ .powerOnReset := by
    intro hreset
    cases (step_powerOnReset hreset).symm.trans ht
    exact absurd hterm nofun
  cases step_records ht hturn with
  | quiet rs _ _ _ hphase => exact absurd (hphase hterm) hs
  | starts _ _ _ hphase => exact absurd hterm hphase
  | ends h =>
    cases h with
    | terminate hu o c w ho => exact ⟨_, rfl, fun ho' => absurd ho' ho⟩
    | mismatch hu c w => exact ⟨_, rfl, fun _ => ⟨_, rfl⟩⟩

/-- Settles O50: the one kind of step that emits a Running record is the one that sets STARTED, from 0. -/
theorem runningMarkerOncePerPowerOn : Obligations.RunningMarkerOncePerPowerOn := by
  intro s t ht hturn
  obtain ⟨rs, hlog, ⟨hrs, hstarted⟩ | ⟨rfl, hs, hts⟩⟩ := (step_records ht hturn).appends
  · have hnorise : ¬ (s.ctl.started = false ∧ t.ctl.started = true) := by simp [hstarted]
    rw [hlog, List.count_append, List.count_eq_zero_of_not_mem hrs, if_neg hnorise]
    exact ⟨fun h => hstarted.trans h, rfl⟩
  · rw [hlog, List.count_append, if_pos ⟨hs, hts⟩]
    exact ⟨fun _ => hts, rfl⟩

/-- Settles O51: power-on reset leaves the LOG as it is (R264), every other step appends to it. -/
theorem logIsAppendOnly : Obligations.LogIsAppendOnly := by
  intro s t ht
  by_cases hturn : currentTurn s = .powerOnReset
  · cases (step_powerOnReset hturn).symm.trans ht
    exact ⟨[], List.append_nil _⟩
  · obtain ⟨rs, hlog, -⟩ := (step_records ht hturn).appends
    exact ⟨rs, hlog.symm⟩

end Sys2Proof.Machine

/-! PROOFS. O14, O15, O18: termination, the checks of a CMD write, and the terminated block. -/

namespace Sys2Proof.Machine

section
variable {P : State → Prop} {s t : State} {i : Instr} {w : Word}

/-! ### The checks of a CMD write (R235) -/

/-- Checks 4 to 7, in order, as R235 words them. -/
theorem violated_eq (i : Instr) (s : State) : violated i s =
    if needsInit i = true ∧ s.ring.initDone = false then some .notInitialized
    else if i = .rbInit ∧ s.ring.initDone = true then some .reinit
    else if mutates i = true ∧ isFlush i = false ∧ s.ring.spanOut = true then some .spanHazard
    else if i = .loopStart ∧ s.ctl.started = true then some .restart
    else none := by
  simp [violated, and_assoc]

/-- Checks 1 and 2 come before all else, whatever the word (R235). -/
theorem issue_eq_acceptCmd (w : Word) (s : State) : ∃ run, issue w s = acceptCmd w s run := by
  cases hd : decode w with
  | error e => exact ⟨_, issue_illegal hd⟩
  | ok i =>
    obtain ⟨-, rfl⟩ := encodeOfDecode w i hd
    obtain ⟨body, hbody⟩ := exec_eq_commonChecks i s
    exact ⟨_, (issue_decoded hd).trans hbody⟩

theorem issue_terminated (w : Word) (h : s.ctl.phase = .terminated) : issue w s = .next s := by
  obtain ⟨run, hrun⟩ := issue_eq_acceptCmd w s
  rw [hrun, acceptCmd_terminated w run h]

theorem issue_busy (w : Word) (h : s.isBusy = true) : issue w s = .next (s.raiseFault .cmdWhileBusy w) := by
  obtain ⟨run, hrun⟩ := issue_eq_acceptCmd w s
  rw [hrun, acceptCmd_busy w run h]

theorem issue_illegal_idle {e : DecodeError} (hi : s.Idle) (hd : decode w = .error e) :
    issue w s = .next (s.raiseFault .illegalCommand w) := by
  rw [issue_illegal hd, acceptCmd_idle w _ hi]

/-- The fault of a decoded command carries the word written (R230, R235). -/
theorem issue_violated {c : Cause} (hi : s.Idle) (hd : decode w = .ok i) (hv : violated i s = some c) :
    issue w s = .next (s.raiseFault c w) := by
  obtain ⟨-, rfl⟩ := encodeOfDecode w i hd
  exact (issue_decoded hd).trans (traps_of_violated hi hv)

/-! ### The terminated block (R233) -/

/-- The block is as in `s`, but for NOTIFY_PEND and the registers the host writes itself (R233, R234). -/
def State.SameBlock (s t : State) : Prop :=
  t.ctl = { s.ctl with notifyPend := t.ctl.notifyPend } ∧ t.ring = s.ring ∧ t.val = s.val ∧ t.diag = s.diag ∧
    t.regs.result = s.regs.result ∧ t.ext.log = s.ext.log

theorem State.SameBlock.refl (s : State) : s.SameBlock s := ⟨rfl, rfl, rfl, rfl, rfl, rfl⟩

/-- The host writes no register but its own three; RESULT is not among them (R37, R40). -/
theorem writeReg_eq (s : State) (reg : HostReg) (v : Word) :
    writeReg s reg v = { s with regs := (writeReg s reg v).regs } ∧ (writeReg s reg v).regs.result = s.regs.result := by
  cases reg <;> exact ⟨rfl, rfl⟩

/-- What a host turn can do, said once: a CMD write, or a change of ARG, CONFIG, WATERMARK and the outside without the LOG. -/
theorem hostMove_all (hissue : ∀ prog w, Out.All P (issue w (s.setProg prog)))
    (hother : ∀ (r : HostRegs) (e : External), r.result = s.regs.result → e.log = s.ext.log →
      P { s with regs := r, ext := e }) : Out.All P (hostMove s) := by
  have hext (e : External) (he : e.log = s.ext.log) : P { s with ext := e } := hother s.regs e rfl he
  have hflush (n : Word) (rest : List HostAction) : Out.All P (hostFlush n rest s) := by
    rcases hostFlush_cases n rest s with ⟨-, heq⟩ | ⟨-, heq⟩ <;> rw [heq] <;> exact hissue _ _
  unfold hostMove
  split
  · exact hext s.ext rfl
  · next v rest _ =>
    unfold hostWrite
    split
    · trivial
    · exact hissue _ _
    · next r _ _ =>
      obtain ⟨heq, hresult⟩ := writeReg_eq (s.setProg rest) r v
      rw [heq]
      exact hother _ _ hresult rfl
  · unfold hostRead
    split
    · trivial
    · exact hext _ rfl
  · trivial
  · unfold hostReadWindow
    split
    · trivial
    · exact hext _ rfl
  · next a b rest _ =>
    have ha : a.toNat < 2 ^ Config.hostAw := a.isLt
    simp only [hostStoreMem, memWrite, if_pos ha]
    exact hext _ rfl
  · unfold hostLoadMem
    split
    · trivial
    · exact hext _ rfl
  · exact hext _ rfl
  · exact hflush _ _
  · exact hflush _ _

/-- Once terminated the core has no step, a CMD write has no effect and a wake finds no wait (R156, R233, R235). -/
theorem takeTurn_terminated {a : Turn} (ha : a ≠ .powerOnReset) (h : s.ctl.phase = .terminated) :
    Out.All s.SameBlock (takeTurn a s) := by
  cases a with
  | core =>
    have hstay : coreMove s = .next s := by rw [coreMove, h]
    rw [takeTurn, hstay]
    exact .refl s
  | host =>
    refine hostMove_all (fun prog w => ?_) fun r e hresult hlog => ⟨rfl, rfl, rfl, rfl, hresult, hlog⟩
    rw [issue_terminated (s := s.setProg prog) w h]
    exact .refl s
  | producer m =>
    rw [Out.all_iff]
    intro t ht
    obtain ⟨-, hring, hval, hdiag, hregs, hctl, hext⟩ := producerMovesStayOutside m s t ht
    exact ⟨hctl, hring, hval, hdiag, by rw [hregs], by rw [hext]⟩
  | spuriousWake =>
    have hstay : s.ctl.phase.wakesTo = s.ctl.phase := by rw [h]; rfl
    exact ⟨by simp [hstay], rfl, rfl, rfl, rfl, rfl⟩
  | powerOnReset => exact absurd rfl ha

end

/-- Settles O14: termination marks its registers and emits one record, and a fault is a termination. -/
theorem terminationWritesOnly : Obligations.TerminationWritesOnly := by
  intro s o c w
  exact ⟨State.eq_of_parts rfl rfl rfl rfl rfl rfl rfl, decide_eq_true rfl, rfl⟩

/-- Settles O15: the checks before decoding by PHASE, decoding, then the checks of a decoded command in their order. -/
theorem commandChecksInOrder : Obligations.CommandChecksInOrder := by
  intro w s
  split
  · next hterm => exact issue_terminated w hterm
  next hterm =>
  split
  · next hbusy => exact issue_busy w hbusy
  next hbusy =>
  have hi : s.Idle := by
    rcases s.phase_cases with hi | ⟨hb, -⟩ | ⟨ht, -⟩
    · exact hi
    · exact absurd hb hbusy
    · exact absurd ht hterm
  cases hd : decode w with
  | error e => exact issue_illegal_idle hi hd
  | ok i =>
    have hv := violated_eq i s
    dsimp only
    split_ifs at hv ⊢
    · exact issue_violated hi hd hv
    · exact issue_violated hi hd hv
    · exact issue_violated hi hd hv
    · exact issue_violated hi hd hv
    · exact ⟨issue_decoded hd, hv⟩

/-- Settles O18: a power-on reset turn leads to IDLE, every other turn leaves the terminated block as it is. -/
theorem terminatedIsAbsorbing : Obligations.TerminatedIsAbsorbing := by
  intro s h
  refine ⟨fun hreset => ⟨_, step_powerOnReset hreset, rfl⟩, fun t hturn ht => ?_⟩
  exact Out.all_iff.mp (takeTurn_terminated (s := popTurn s) hturn h) t ht

end Sys2Proof.Machine

/-! PROOFS. O19, O39: how a command can fault, and what becomes of NOTIFY_PEND. One walk over the meanings answers both. -/

namespace Sys2Proof.Machine

/-- From `s` to `t` NOTIFY_PEND is kept and the block ends in an outcome other than GenericProcessingFailure (R221). -/
structure State.EndsOtherwise (s t : State) : Prop where
  notifyPend : t.ctl.notifyPend = s.ctl.notifyPend
  outcome : t.ctl.outcome ≠ .genericProcessingFailure

/-- What an operation run for `word` from `s` answers: it goes on, or it faults in the very state it found, but for a question to
the upstream port where `asks` allows one, or it ends the block otherwise (R230, R231). -/
inductive State.Precise (word : Word) (asks : Prop) (s t : State) : Prop
  | goesOn (hpend : t.ctl.notifyPend = s.ctl.notifyPend)
      (hphase : t.ctl.phase = .terminated → s.ctl.phase = .terminated)
  | faults (c : Cause) (u : State) (hu : u = s ∨ asks ∧ u = s.askUpstream) (ht : t = u.raiseFault c word)
  | ends (h : s.EndsOtherwise t)

/-- A drain check keeps NOTIFY_PEND, and one that terminates the block does so precisely. -/
def DrainResult.Precise (word : Word) (asks : Prop) (s : State) : DrainResult → Prop
  | .done _ t => t.ctl.notifyPend = s.ctl.notifyPend
  | .fatal t => s.Precise word asks t
  | .block t => t.ctl.notifyPend = s.ctl.notifyPend
  | .broken _ => True

/-- A process step keeps NOTIFY_PEND, and raises no fault of its own. -/
def ProcessResult.Precise (s : State) : ProcessResult → Prop
  | .done _ t => t.ctl.notifyPend = s.ctl.notifyPend
  | .fatal t => s.EndsOtherwise t
  | .broken _ => True

section
variable {s t u : State} {word : Word} {asks : Prop} {i : Instr}

namespace State.Precise

theorem refl (s : State) : s.Precise word asks s := .goesOn rfl id

theorem raiseFault (s : State) (c : Cause) : s.Precise word asks (s.raiseFault c word) := .faults c s (.inl rfl) rfl

theorem complete (h : t.ctl.notifyPend = s.ctl.notifyPend) (v : Word) : s.Precise word asks (t.complete v) :=
  .goesOn h nofun

theorem setPhase (h : t.ctl.notifyPend = s.ctl.notifyPend) {p : Phase} (hp : p ≠ .terminated) :
    s.Precise word asks (t.setPhase p) := .goesOn h fun ht => absurd ht hp

theorem notifyPend_eq (h : s.Precise word asks t) : t.ctl.notifyPend = s.ctl.notifyPend := by
  cases h with
  | goesOn hpend hphase => exact hpend
  | faults c u hu ht =>
    subst ht
    rcases hu with rfl | ⟨-, rfl⟩ <;> rfl
  | ends h => exact h.notifyPend

end State.Precise

/-! ### The drain check (R152) -/

theorem State.latchOverflow_notifyPend (s : State) (flag : Byte) :
    (s.latchOverflow flag).ctl.notifyPend = s.ctl.notifyPend := by
  rcases s.latchOverflow_cases flag with ⟨-, -, heq⟩ | ⟨-, heq⟩ <;> rw [heq]

theorem drainTransfer_precise (h : t.ctl.notifyPend = s.ctl.notifyPend) : (drainTransfer t).Precise word asks s := by
  unfold drainTransfer
  dsimp only
  split
  · trivial
  · split
    · trivial
    · next hput =>
      rw [eq_of_ringPut hput]
      exact h

theorem drainIdle_precise (h : t.ctl.notifyPend = s.ctl.notifyPend) : (drainIdle word t).Precise word asks s := by
  unfold drainIdle
  split
  · trivial
  · next flag _ =>
    have hlatch := (t.latchOverflow_notifyPend flag).trans h
    dsimp only
    split
    · exact .ends ⟨hlatch, nofun⟩
    · split <;> exact hlatch

/-- The one fault of a drain check comes right after its question to the upstream port (R70, R152). -/
theorem drainCheck_precise (ha : asks) (word : Word) (s : State) : (drainCheck word s).Precise word asks s := by
  rcases drainCheck_cases word s with ⟨-, -, heq⟩ | ⟨-, -, heq⟩ | ⟨-, heq⟩ <;> rw [heq]
  · exact .faults _ _ (.inr ⟨ha, rfl⟩) rfl
  · exact drainTransfer_precise rfl
  · exact drainIdle_precise rfl

theorem drainFinish_precise {r : DrainResult} (h : r.Precise word asks s) :
    Out.All (s.Precise word asks) (drainFinish r) := by
  cases r with
  | done n t => exact .complete h _
  | fatal t => exact h
  | block t => exact .setPhase h nofun
  | broken f => trivial

theorem runDrainFinish_notifyPend {r : DrainResult} (h : r.Precise word asks s) :
    Out.All (·.ctl.notifyPend = s.ctl.notifyPend) (runDrainFinish r) := by
  cases r with
  | done n t => exact h
  | fatal t => exact State.Precise.notifyPend_eq h
  | block t => exact h
  | broken f => trivial

/-! ### The process step (R170) -/

theorem foldl_examine_ctl (bs : List Byte) (s : State) : (bs.foldl State.examine s).ctl = s.ctl := by
  induction bs generalizing s with
  | nil => rfl
  | cons b bs ih => exact (ih _).trans (s.examine_ctl b)

theorem processMismatch_precise (fatal : Bool) (total : Nat) (h : t.ctl.notifyPend = s.ctl.notifyPend) :
    (processMismatch fatal word total t).Precise s := by
  unfold processMismatch
  cases fatal with
  | false => exact h
  | true => exact ⟨h, nofun⟩

theorem processSpans_precise (fatal : Bool) (fuel total : Nat) (h : t.ctl.notifyPend = s.ctl.notifyPend) :
    (processSpans fatal word fuel total t).Precise s := by
  induction fuel generalizing total t with
  | zero => exact h
  | succ fuel ih =>
    unfold processSpans
    split
    · exact h
    · split
      · trivial
      · next k mm t1 hspan =>
        obtain ⟨bs, rfl⟩ := eq_foldl_of_examineSpan hspan
        have hdrop : (ringDrop (bs.foldl State.examine t) k).ctl.notifyPend = s.ctl.notifyPend := by
          rw [ringDrop_ctl, foldl_examine_ctl, h]
        split
        · exact processMismatch_precise fatal _ hdrop
        · exact ih _ hdrop

theorem processBody_precise (config word : Word) (s : State) : (processBody config word s).Precise s :=
  processSpans_precise _ _ _ rfl

theorem processFinish_precise {r : ProcessResult} (h : r.Precise s) :
    Out.All (s.Precise word asks) (processFinish r) := by
  cases r with
  | done n t => exact .complete h _
  | fatal t => exact .ends h
  | broken f => trivial

theorem runProcessFinish_notifyPend {r : ProcessResult} (h : r.Precise s) :
    Out.All (·.ctl.notifyPend = s.ctl.notifyPend) (runProcessFinish r) := by
  cases r with
  | done n t => exact h
  | fatal t => exact h.notifyPend
  | broken f => trivial

/-! ### The commands -/

theorem commonChecks_precise {body : Out} (hb : Out.All (s.Precise (encode i) asks) body) :
    Out.All (s.Precise (encode i) asks) (commonChecks i s body) :=
  commonChecks_all i (.refl s) (.raiseFault s) hb

/-- A command whose body only completes, with NOTIFY_PEND as found. -/
theorem completes_precise {v : Word} (h : u.ctl.notifyPend = s.ctl.notifyPend) :
    Out.All (s.Precise (encode i) asks) (commonChecks i s (.next (u.complete v))) :=
  commonChecks_precise (.complete h v)

theorem execRbWrite_precise (len : Word) (s : State) :
    Out.All (s.Precise (encode (.rbWrite len)) asks) (execRbWrite len s) := by
  refine commonChecks_precise ?_
  dsimp only
  split
  · split
    · trivial
    · split
      · trivial
      · next hput =>
        rw [eq_of_ringPut hput]
        exact .goesOn rfl nofun
  · exact .raiseFault s _

theorem execRbRead_precise (len : Word) (s : State) :
    Out.All (s.Precise (encode (.rbRead len)) asks) (execRbRead len s) := by
  refine commonChecks_precise ?_
  dsimp only
  split
  · split
    · trivial
    · split
      · trivial
      · next hwrite =>
        rw [eq_of_writeRun_memWrite hwrite]
        exact State.Precise.complete (by rw [ringDrop_ctl]) _
  · exact .raiseFault s _

theorem execRbFlush_precise (len : Word) (s : State) :
    Out.All (s.Precise (encode (.rbFlush len)) asks) (execRbFlush len s) := by
  refine commonChecks_precise ?_
  split
  · exact .raiseFault s _
  · exact .complete (by rw [ringDrop_ctl]) _

/-- Every command, from any state; FC.DRAIN alone asks the upstream port. -/
theorem exec_precise (i : Instr) (s : State) : Out.All (s.Precise (encode i) (i = .fcDrain)) (exec i s) := by
  cases i with
  | rbInit =>
    refine commonChecks_precise ?_
    split
    · exact .raiseFault s _
    · exact .goesOn rfl nofun
  | rbWrite len => exact execRbWrite_precise len s
  | rbRead len => exact execRbRead_precise len s
  | rbFlush len => exact execRbFlush_precise len s
  | rbSpan => exact completes_precise rfl
  | rbClear => exact completes_precise rfl
  | rbCap => exact completes_precise rfl
  | rbUsed => exact completes_precise rfl
  | rbFree => exact completes_precise rfl
  | rbEmpty => exact completes_precise rfl
  | rbFull => exact completes_precise rfl
  | fcDrain =>
    refine commonChecks_precise ?_
    split
    · exact .complete rfl _
    · exact drainFinish_precise (drainCheck_precise rfl _ s)
  | svProcess => exact commonChecks_precise (processFinish_precise (processBody_precise _ _ s))
  | osRead =>
    refine commonChecks_precise ?_
    split
    · trivial
    · exact .complete rfl _
  | loopStart => exact completes_precise rfl
  | loopRun =>
    refine commonChecks_precise ?_
    split <;> exact .goesOn rfl nofun

/-! ### NOTIFY_PEND in a step (R156, R240) -/

/-- An answer that keeps NOTIFY_PEND, in the words of the walk. -/
theorem Out.keepsPend_of_precise {o : Out} (h : Out.All (s.Precise word asks) o) :
    Out.All (·.ctl.notifyPend = s.ctl.notifyPend) o :=
  Out.all_iff.mpr fun t ht => (Out.all_iff.mp h t ht).notifyPend_eq

theorem issue_notifyPend (w : Word) (s : State) : Out.All (·.ctl.notifyPend = s.ctl.notifyPend) (issue w s) := by
  cases hd : decode w with
  | ok i => rw [issue_decoded hd]; exact Out.keepsPend_of_precise (exec_precise i s)
  | error e => rw [issue_illegal hd]; exact acceptCmd_all w rfl (fun _ => rfl) rfl

/-- Outside a wait the core's own step consumes no notification. -/
theorem coreMove_notifyPend (hw : ¬ s.isWaiting = true) :
    Out.All (·.ctl.notifyPend = s.ctl.notifyPend) (coreMove s) := by
  rw [State.isWaiting_iff] at hw
  unfold coreMove
  cases hp : s.ctl.phase with
  | idle => rfl
  | terminated => rfl
  | drainWait => exact absurd (.inl hp) hw
  | runWait => exact absurd (.inr hp) hw
  | drainCheck => exact Out.keepsPend_of_precise (drainFinish_precise (drainCheck_precise trivial _ s))
  | runDrain =>
    dsimp only
    unfold runDrainStep
    split
    · rfl
    · exact runDrainFinish_notifyPend (drainCheck_precise trivial _ s)
  | runProcess => exact runProcessFinish_notifyPend (processBody_precise _ _ s)

theorem hostMove_notifyPend (s : State) : Out.All (·.ctl.notifyPend = s.ctl.notifyPend) (hostMove s) :=
  hostMove_all (fun _ w => issue_notifyPend w _) fun _ _ _ _ => rfl

/-- The notify input in the terms of R240. -/
theorem State.notify_eq (s : State) :
    s.notify = { s with ctl.notifyPend :=
      if s.params.notifyLatched = true ∨ s.ctl.phase = .drainWait ∨ s.ctl.phase = .runWait then true
      else s.ctl.notifyPend } := by
  have hcond : (s.params.notifyLatched || s.isWaiting) = true ↔
      s.params.notifyLatched = true ∨ s.ctl.phase = .drainWait ∨ s.ctl.phase = .runWait := by
    rw [Bool.or_eq_true, State.isWaiting_iff]
  unfold State.notify
  by_cases h : s.params.notifyLatched = true ∨ s.ctl.phase = .drainWait ∨ s.ctl.phase = .runWait
  · rw [if_pos (hcond.mpr h), if_pos h]
  · rw [if_neg (hcond.not.mpr h), if_neg h]

/-- No move of the producer clears a pending notification. -/
theorem producerMove_notifyPend (m : ProducerMove) (hpend : s.ctl.notifyPend = true) :
    Out.All (·.ctl.notifyPend = true) (producerMove m s) := by
  cases m with
  | publish ptr len => exact hpend
  | writeFifo off b =>
    unfold producerMove
    dsimp only
    split
    · exact hpend
    · trivial
  | notify => simp [producerMove, hpend]

/-- Every turn but power-on reset and the core's in a wait leaves a pending notification pending (R240). -/
theorem takeTurn_notifyPend {a : Turn} (hreset : a ≠ .powerOnReset) (hcore : a = .core → ¬ s.isWaiting = true)
    (hpend : s.ctl.notifyPend = true) : Out.All (·.ctl.notifyPend = true) (takeTurn a s) := by
  have hkept {o : Out} (h : Out.All (·.ctl.notifyPend = s.ctl.notifyPend) o) : Out.All (·.ctl.notifyPend = true) o := by
    rwa [hpend] at h
  cases a with
  | core => exact hkept (coreMove_notifyPend (hcore rfl))
  | host => exact hkept (hostMove_notifyPend s)
  | producer m => exact producerMove_notifyPend m hpend
  | spuriousWake => exact hpend
  | powerOnReset => exact absurd rfl hreset

end

/-- Settles O19: of what an idle block can answer, only a fault ends in that outcome, and it is raised in the state found. -/
theorem faultsArePrecise : Obligations.FaultsArePrecise := by
  intro i s t hi ht hterm hout
  have hrun : s.ctl.phase ≠ .terminated := ne_of_eq_of_ne hi nofun
  cases Out.all_iff.mp (exec_precise i s) t ht with
  | goesOn _ hphase => exact absurd (hphase hterm) hrun
  | ends h => exact absurd hout h.outcome
  | faults c u hu ht =>
    subst ht
    rcases hu with rfl | ⟨hdrain, rfl⟩
    · exact ⟨rfl, rfl, rfl, rfl, rfl, rfl, rfl, .inl rfl⟩
    · exact ⟨rfl, rfl, rfl, rfl, rfl, rfl, rfl, .inr ⟨hdrain, rfl⟩⟩

/-- Settles O39: the notify input by its definition; a step that clears NOTIFY_PEND is none of those that keep it. -/
theorem notifyInputSetsPending : Obligations.NotifyInputSetsPending := by
  refine ⟨fun s => congrArg Host.Outcome.next s.notify_eq, fun s t ht hpend hcleared => ?_⟩
  by_contra hno
  obtain ⟨hreset, hcore⟩ := not_or.mp hno
  have hkept := takeTurn_notifyPend (s := popTurn s) hreset (fun hc hw => hcore ⟨hc, hw⟩) hpend
  exact Bool.false_ne_true (hcleared.symm.trans (Out.all_iff.mp hkept t ht))

end Sys2Proof.Machine

/-! PROOFS. O17: the commands while a span is outstanding. -/

namespace Sys2Proof.Machine

section
variable {s : State} {i : Instr} {len : Word}

/-- Check 6 of R235 stops a mutating command but RB.INIT and RB.FLUSH while a span is outstanding (R270). -/
theorem violated_spanHazard (hd : s.ring.initDone = true) (hs : s.ring.spanOut = true) (hm : mutates i = true)
    (hf : isFlush i = false) (h1 : i ≠ .rbInit) : violated i s = some .spanHazard := by
  simp [violated, hd, hs, hm, hf, h1]

/-- A flush that the outstanding span covers completes and releases the span, whatever the ring holds (R117). -/
theorem exec_rbFlush_releases (hi : s.Idle) (hv : violated (.rbFlush len) s = none) (hc : s.SpanCovers len) :
    ∃ t, exec (.rbFlush len) s = .next t ∧ t.ctl = s.ctl ∧ t.ring.spanOut = false := by
  have hpass : exec (.rbFlush len) s = _ := commonChecks_pass _ hi hv
  have hok : ¬ (s.ring.spanOut && decide (s.ring.spanLen.toNat < len.toNat)) = true := by
    rcases hc with hc | hc <;> simp [hc]
  have hctl : (ringDrop s (s.available len.toNat)).ctl = s.ctl := ringDrop_ctl s _
  have hidle : State.Idle { ringDrop s (s.available len.toNat) with ring.spanOut := false } :=
    (congrArg Control.phase hctl).trans hi
  rw [hpass, if_neg hok]
  exact ⟨_, rfl, (State.complete_ctl_of_idle _ hidle).trans hctl, rfl⟩

/-- After RB.INIT the ring's commands that do not mutate complete, an outstanding span or none (R120 to R125, R270). -/
theorem exec_nonMutating_completes (hi : s.Idle) (hd : s.ring.initDone = true)
    (hmem : i ∈ [Instr.rbSpan, .rbCap, .rbUsed, .rbFree, .rbEmpty, .rbFull]) :
    ∃ t, exec i s = .next t ∧ t.ctl = s.ctl := by
  simp only [List.mem_cons, List.not_mem_nil, or_false] at hmem
  have hv : violated i s = none := by
    rcases hmem with rfl | rfl | rfl | rfl | rfl | rfl <;> exact violated_initDone hd (.inl rfl) nofun nofun
  rcases hmem with rfl | hintrospection
  · exact ⟨_, exec_rbSpan hi hv, rfl⟩
  · have hbody : ∃ v, exec i s = commonChecks i s (.next (s.complete v)) := by
      rcases hintrospection with rfl | rfl | rfl | rfl | rfl <;> exact ⟨_, rfl⟩
    obtain ⟨v, hbody⟩ := hbody
    exact ⟨_, exec_completes hbody hi hv, rfl⟩

end

/-- Settles O17: check 6 stops the mutating commands but RB.FLUSH, which SPAN_LEN decides; no check stops the others. -/
theorem spanDiscipline : Obligations.SpanDiscipline := by
  intro s len hi hd hs
  have hhazard {i : Instr} (hm : mutates i = true) (hf : isFlush i = false) (h1 : i ≠ .rbInit) : Traps i s .spanHazard :=
    traps_of_violated hi (violated_spanHazard hd hs hm hf h1)
  have hflush : violated (.rbFlush len) s = none := violated_initDone hd (.inr rfl) nofun nofun
  refine ⟨hhazard rfl rfl nofun, hhazard rfl rfl nofun, hhazard rfl rfl nofun, hhazard rfl rfl nofun, hhazard rfl rfl nofun,
    hhazard rfl rfl nofun, fun hlong => ?_, fun hfits => exec_rbFlush_releases hi hflush (.inr hfits),
    fun i hmem => exec_nonMutating_completes hi hd hmem, fun hin => ?_, fun hnew => ?_⟩
  · exact traps_rbFlush hi hflush (by simp [State.SpanCovers, hs, hlong])
  · exact ⟨_, osReadReturnsFlag s hi hin, rfl⟩
  · obtain ⟨hmarks, -⟩ := loopStartMarksOnce s hi
    exact ⟨_, hmarks hnew, rfl⟩

end Sys2Proof.Machine

/-! PROOFS. O40: a wait ends. While it lasts each step takes one turn off the list and adds none (log 3), so that in the end the
list is empty and a pending notification gives the core the turn. -/

namespace Sys2Proof.Machine

section
variable {s t : State} {r : Nat → State}

/-! ### The list of turns during a wait (log 3) -/

theorem State.isBusy_of_waiting (h : s.isWaiting = true) : s.isBusy = true := by
  rcases State.isWaiting_iff.mp h with hp | hp <;> rw [State.isBusy, hp] <;> rfl

/-- A CMD write during a wait faults with CMD_WHILE_BUSY, which leaves the turns alone (R235). -/
theorem issue_turns_of_busy (w : Word) (h : s.isBusy = true) : Out.All (·.ext.turns = s.ext.turns) (issue w s) := by
  rw [issue_busy w h]
  rfl

theorem hostWrite_turns_of_busy (size : AccessSize) (off : Nat) (v : Word) (h : s.isBusy = true) :
    Out.All (·.ext.turns = s.ext.turns) (hostWrite size off v s) := by
  unfold hostWrite
  split
  · trivial
  · exact issue_turns_of_busy v h
  · next reg _ _ => exact congrArg (·.ext.turns) (writeReg_eq s reg v).1

theorem hostMove_turns_of_busy (h : s.isBusy = true) : Out.All (·.ext.turns = s.ext.turns) (hostMove s) := by
  have hflush (n : Word) (rest : List HostAction) : Out.All (·.ext.turns = s.ext.turns) (hostFlush n rest s) := by
    rcases hostFlush_cases n rest s with ⟨-, heq⟩ | ⟨-, heq⟩ <;> rw [heq] <;> exact issue_turns_of_busy (s := s.setProg _) _ h
  unfold hostMove
  split
  · rfl
  · next size off v rest _ => exact hostWrite_turns_of_busy (s := s.setProg rest) size off v h
  · unfold hostRead
    split
    · trivial
    · rfl
  · trivial
  · unfold hostReadWindow
    split
    · trivial
    · rfl
  · next a b rest _ =>
    have ha : a.toNat < 2 ^ Config.hostAw := a.isLt
    simp only [hostStoreMem, memWrite, if_pos ha]
    rfl
  · unfold hostLoadMem
    split
    · trivial
    · rfl
  · rfl
  · exact hflush _ _
  · exact hflush _ _

/-- No agent's turn adds a turn to the list during a wait. -/
theorem takeTurn_turns_of_waiting (a : Turn) (h : s.isWaiting = true) :
    Out.All (·.ext.turns = s.ext.turns) (takeTurn a s) := by
  cases a with
  | core =>
    rw [takeTurn, coreMove_waiting h, waitStep]
    split <;> rfl
  | host => exact hostMove_turns_of_busy (State.isBusy_of_waiting h)
  | producer m =>
    rw [Out.all_iff]
    intro t ht
    obtain ⟨-, -, -, -, -, -, hext⟩ := producerMovesStayOutside m s t ht
    rw [hext]
  | spuriousWake => rfl
  | powerOnReset => rfl

theorem step_turns_of_waiting (h : s.isWaiting = true) (ht : step s = .next t) : t.ext.turns = s.ext.turns.tail :=
  Out.all_iff.mp (takeTurn_turns_of_waiting (s := popTurn s) (currentTurn s) h) t ht

/-- A run that waits forever uses up its list of turns, one a step. -/
theorem IsRun.turns_eq_drop (hrun : IsRun r) (hwait : ∀ n, (r n).isWaiting = true) (n : Nat) :
    (r n).ext.turns = (r 0).ext.turns.drop n := by
  induction n with
  | zero => rfl
  | succ n ih => rw [step_turns_of_waiting (hwait n) (hrun n), ih, List.tail_drop]

/-! ### The core's turn in a wait (R156) -/

/-- Where no turn is fixed, a core that waits with a notification pending moves next (log 3). -/
theorem currentTurn_of_pending (h : s.isWaiting = true) (hpend : s.ctl.notifyPend = true) (hturns : s.ext.turns = []) :
    currentTurn s = .core := by
  have hready : coreReady s = true := by
    rcases State.isWaiting_iff.mp h with hp | hp <;> rw [coreReady, hp] <;> exact hpend
  simp [currentTurn, hturns, hready]

theorem Phase.waiting_wakesTo (p : Phase) : p.wakesTo.waiting = false := by cases p <;> rfl

/-- The core's turn with a notification pending ends the wait. -/
theorem step_endsWait (h : s.isWaiting = true) (hpend : s.ctl.notifyPend = true) (hturn : currentTurn s = .core)
    (ht : step s = .next t) : t.isWaiting = false := by
  have hwake : step s = .next (popTurn s).wakeOnNotify := by
    rw [step, hturn, takeTurn, coreMove_waiting (s := popTurn s) h, waitStep]
    exact if_pos hpend
  obtain rfl : (popTurn s).wakeOnNotify = t := Host.Outcome.next.inj (hwake.symm.trans ht)
  exact Phase.waiting_wakesTo s.ctl.phase

end

/-- Settles O40: in a run that waits forever PRODUCER_PROGRESS gives a notification after the last fixed turn, and the core's step
on it ends the wait. -/
theorem waitEndsUnderProducerProgress : Obligations.WaitEndsUnderProducerProgress := by
  intro r hrun hprogress _
  by_contra hnever
  have hwait (n : Nat) : (r n).isWaiting = true := Bool.eq_true_of_not_eq_false fun hends => hnever ⟨n, hends⟩
  obtain ⟨m, hlate, hdelivers⟩ := hprogress (r 0).ext.turns.length
  obtain ⟨-, hpend⟩ := hdelivers (hwait m)
  have hturns : (r m).ext.turns = [] := by rw [hrun.turns_eq_drop hwait, List.drop_eq_nil_of_le hlate]
  have hcore : currentTurn (r m) = .core := currentTurn_of_pending (hwait m) hpend hturns
  exact hnever ⟨m + 1, step_endsWait (hwait m) hpend hcore (hrun m)⟩

end Sys2Proof.Machine
